-- ==== Sys2Proof/Word.lean ====
section
/-! DEFINITION. The two bit widths of the block's data (00_scope.md R11: `uN` is an unsigned N-bit integer). -/

namespace Sys2Proof

/-- `u32`: offsets, addresses, lengths, sums. Addition wraps modulo 2^32 (R11). -/
abbrev Word := BitVec 32

/-- `u8`: flash bytes, status samples, opcode bytes. -/
abbrev Byte := BitVec 8

end Sys2Proof
end

