-- ==== Sys2Proof/Syntax.lean ====
section
/-! DEFINITION. The names, records and instructions of the block: 30_encoding.md formats, one constructor of
`Instr` per row of opcode_table.json. -/

namespace Sys2Proof

/-- The nine command kinds (R102). -/
inductive Kind where
  | resetEnable
  | reset
  | writeEnable
  | readStatus
  | pageProgram
  | sectorErase
  | chipErase
  | quadRead
  | enter4Byte
  deriving DecidableEq, Repr

/-- One BUSCMD (R82, R89): four descriptor words and the payload bytes of a write data phase. `kind` is the
catalog key it was encoded from, which the trace syntax names (R91). -/
structure BusCmd where
  kind : Kind
  w0 : Word
  w1 : Word
  w2 : Word
  w3 : Word
  payload : List Byte
  deriving DecidableEq, Repr

/-- PollSpec (R84, R29): `mask`, `match`, `interval`, `timeout`. -/
structure PollSpec where
  mask : Byte
  value : Byte
  interval : Word
  timeout : Word
  deriving DecidableEq, Repr

/-- A host request as it stands in its five words (R76). -/
structure HostReq where
  w0 : Word
  start : Word
  length : Word
  seed : Word
  buf : Word
  deriving DecidableEq, Repr

/-- The three opcode spaces of R93. -/
inductive Format where
  | hostReq
  | busCmd
  | xcall
  deriving DecidableEq, Repr

/-- An encoded instruction: its opcode space, its 32-bit words in order (a word that is not listed is 0) and, for
a BUSCMD, its payload bytes (R75, R89). -/
structure Record where
  format : Format
  words : List Word
  payload : List Byte
  deriving DecidableEq, Repr

/-- The instructions: six requests (R77), nine bus commands (R102), four transport calls (R85). A request carries
the words it reads (R79). PAGE_PROGRAM carries its chunk offset and payload (R109), SECTOR_ERASE its offset (R110).
SEND sends the sequencer's `cmd`: its BUSCMD operand (R85), which `step` puts there, or the command encoded last (R105
to R113); POLL and MAP encode the one command R115 and R116 allow them. -/
inductive Instr where
  | init
  | program (start length buf : Word)
  | eraseRange (start length : Word)
  | eraseAll
  | checksum (start length seed : Word)
  | verify (start length seed buf : Word)
  | resetEnable
  | reset
  | writeEnable
  | readStatus
  | pageProgram (offset : Word) (payload : List Byte)
  | sectorErase (offset : Word)
  | chipErase
  | quadRead
  | enter4Byte
  | send
  | poll (spec : PollSpec)
  | map
  | abort
  deriving DecidableEq, Repr

end Sys2Proof
end

