-- ==== Sys2Proof/Config.lean ====
section
/-! DEFINITION. The configuration records (R7 to R10, R100), the spec's test configuration TCFG/REFCAT (D37), and
the free values: constants with no body, about which nothing can be proved. -/

namespace Sys2Proof

/-- FlashGeometry (R7). -/
structure Geometry where
  pageSize : BitVec 32
  sectorSize : BitVec 32
  totalSize : BitVec 64
  eraseValue : Byte
  deriving DecidableEq, Repr

/-- One catalog entry `CAT[K]` (R100). Widths and counts are plain numbers; `Cfg.wf` bounds them. -/
structure CatEntry where
  present : Bool
  opcode : Byte
  ilines : Nat
  alines : Nat
  altLines : Nat
  altSize : Nat
  altValue : Word
  dummyCycles : Nat
  dlines : Nat
  dtr : Bool
  deriving DecidableEq, Repr

/-- CommandCatalog (R8). -/
structure Catalog where
  resetEnable : CatEntry
  reset : CatEntry
  writeEnable : CatEntry
  readStatus : CatEntry
  pageProgram : CatEntry
  sectorErase : CatEntry
  chipErase : CatEntry
  quadRead : CatEntry
  enter4Byte : CatEntry
  addressBytes : Nat
  use4ByteEntry : Bool
  xipAfterInit : Bool
  welBit : Byte
  wipBit : Byte
  pollInterval : Word
  tWel : Word
  tProgram : Word
  tSectorErase : Word
  tChipErase : Word
  tInit : Word
  deriving DecidableEq, Repr

/-- `CAT[K]` (R12). -/
def Catalog.entry (c : Catalog) : Kind → CatEntry
  | .resetEnable => c.resetEnable
  | .reset => c.reset
  | .writeEnable => c.writeEnable
  | .readStatus => c.readStatus
  | .pageProgram => c.pageProgram
  | .sectorErase => c.sectorErase
  | .chipErase => c.chipErase
  | .quadRead => c.quadRead
  | .enter4Byte => c.enter4Byte

/-- The configuration of R20: geometry, catalog and WINDOW_BASE (R9). -/
structure Cfg where
  geom : Geometry
  cat : Catalog
  windowBase : Word
  deriving DecidableEq, Repr

/-- An instruction-only entry of REFCAT: one instruction line, nothing else (D37). -/
def refEntry (opcode : Byte) : CatEntry :=
  { present := true, opcode := opcode, ilines := 1, alines := 0, altLines := 0, altSize := 0, altValue := 0,
    dummyCycles := 0, dlines := 0, dtr := false }

/-- REFCAT with the catalog part of TCFG (D37): the spec's own test catalog, no claim about a part. -/
def refcat : Catalog :=
  { resetEnable := refEntry 0x66
    reset := refEntry 0x99
    writeEnable := refEntry 0x06
    readStatus := { refEntry 0x05 with dlines := 1 }
    pageProgram := { refEntry 0x02 with alines := 1, dlines := 1 }
    sectorErase := { refEntry 0x20 with alines := 1 }
    chipErase := refEntry 0xC7
    quadRead := { refEntry 0x6B with alines := 1, dlines := 4, dummyCycles := 8 }
    enter4Byte := refEntry 0xB7
    addressBytes := 3
    use4ByteEntry := false
    xipAfterInit := false
    welBit := 0x02
    wipBit := 0x01
    pollInterval := 16
    tWel := 256
    tProgram := 4096
    tSectorErase := 65536
    tChipErase := 16777216
    tInit := 256 }

/-- TCFG (D37). -/
def tcfg : Cfg :=
  { geom := { pageSize := 256, sectorSize := 4096, totalSize := 0x01000000, eraseValue := 0xFF }
    cat := refcat
    windowBase := 0x90000000 }

/-- Free value: after how many samples the call numbered `tick` answers BUS_ERROR, or never (R13, R131; log 3). -/
opaque Config.freeBusError : Nat → Option Nat

/-- Free value: sample `k` of the poll numbered `tick` (R131, 93 rows 9 and 10; log 3). -/
opaque Config.freeSample : Nat → Nat → Byte

/-- Free value: the byte stored at an offset before anything was programmed or erased (93 row 14; log 4). -/
opaque Config.flashAtReset : Nat → Byte

/-- Free value: what program or erase command number `epoch` left at an offset where its result is not specified (93
rows 6, 7, 8, 29; logs 5 to 8). -/
opaque Config.freeFlash : Nat → Nat → Byte

/-- Free value: what the window shows at an offset out of geometry after `epoch` program and erase commands (93 row 6;
log 6). -/
opaque Config.freeWindow : Nat → Nat → Byte

/-- Free value: the host's own byte at a RAM address (R36, D34; log 10). -/
opaque Config.hostByte : Nat → Byte

/-- Free value: whether the controller is memory-mapped after call number `tick` failed (R38, 93 row 13; log 19). -/
opaque Config.freeMapped : Nat → Bool

end Sys2Proof
end

