-- ==== Sys2Proof/Decode.lean ====
section
/-! DEFINITION. The command encoder (40_command_encoder.md R101 to R104), the encoder of every instruction as a
record, and the decoder of records (R76 to R78, R82 to R85, R88, R93). The block stores no instruction bytes (R57):
a record is read word by word, as 30_encoding.md lays it out. -/

namespace Sys2Proof

/-! ## Phases per kind (R101) -/

/-- Whether the kind has an address phase. -/
def hasAddr : Kind → Bool
  | .pageProgram | .sectorErase | .quadRead => true
  | _ => false

/-- Whether the kind has alternate bytes: QUAD_READ, where the catalog gives `alt_size ≥ 1`. -/
def hasAlt (cat : Catalog) : Kind → Bool
  | .quadRead => decide (1 ≤ cat.quadRead.altSize)
  | _ => false

/-- Whether the catalog's dummy cycles are emitted. -/
def hasDummy : Kind → Bool
  | .readStatus | .quadRead => true
  | _ => false

/-- DDIR of R82: 0 none, 1 read, 2 write. -/
def dataDir : Kind → BitVec 2
  | .readStatus | .quadRead => 1
  | .pageProgram => 2
  | _ => 0

/-- Line-width code (R83). A width outside {0,1,2,4} is not well formed (R10) and has no code. -/
def lineCode : Nat → BitVec 2
  | 1 => 1
  | 2 => 2
  | 4 => 3
  | _ => 0

/-! ## `Encode(K, a, payload)` (R104) -/

/-- The fields of the command word of kind `k` (R82), each where R101 gives the kind that phase, else 0. -/
def imodeOf (cat : Catalog) (k : Kind) : BitVec 2 := lineCode (cat.entry k).ilines
def admodeOf (cat : Catalog) (k : Kind) : BitVec 2 := if hasAddr k then lineCode (cat.entry k).alines else 0
def adsizeOf (cat : Catalog) (k : Kind) : BitVec 2 := if hasAddr k then BitVec.ofNat 2 (cat.addressBytes - 1) else 0
def abmodeOf (cat : Catalog) (k : Kind) : BitVec 2 := if hasAlt cat k then lineCode (cat.entry k).altLines else 0
def absizeOf (cat : Catalog) (k : Kind) : BitVec 2 := if hasAlt cat k then BitVec.ofNat 2 ((cat.entry k).altSize - 1) else 0
def dcycOf (cat : Catalog) (k : Kind) : BitVec 5 := if hasDummy k then BitVec.ofNat 5 (cat.entry k).dummyCycles else 0
def dmodeOf (cat : Catalog) (k : Kind) : BitVec 2 := if dataDir k = 0 then 0 else lineCode (cat.entry k).dlines

/-- Descriptor word 0 of `Encode` (R104), assembled by shifts as the rule writes it. -/
def encodeWord0 (cat : Catalog) (k : Kind) : Word :=
  (cat.entry k).opcode.setWidth 32
    ||| ((imodeOf cat k).setWidth 32 <<< 8)
    ||| ((admodeOf cat k).setWidth 32 <<< 10)
    ||| ((adsizeOf cat k).setWidth 32 <<< 12)
    ||| ((abmodeOf cat k).setWidth 32 <<< 14)
    ||| ((absizeOf cat k).setWidth 32 <<< 16)
    ||| ((dcycOf cat k).setWidth 32 <<< 18)
    ||| ((dmodeOf cat k).setWidth 32 <<< 23)
    ||| ((dataDir k).setWidth 32 <<< 25)
    ||| ((BitVec.ofBool (cat.entry k).dtr).setWidth 32 <<< 27)

/-- Address assembly: `a mod 2^(8·address_bytes)` (R103). -/
def busAddress (cat : Catalog) (a : Nat) : Word := BitVec.ofNat 32 (a % 2 ^ (8 * cat.addressBytes))

/-- Descriptor word 3, NBYTES (R87). -/
def nbytesOf (k : Kind) (payload : List Byte) : Word :=
  match k with
  | .pageProgram => BitVec.ofNat 32 payload.length
  | .readStatus => 1
  | _ => 0

/-- `Encode(K, a, payload)` (R104). -/
def encodeCmd (cat : Catalog) (k : Kind) (a : Nat) (payload : List Byte) : BusCmd :=
  { kind := k
    w0 := encodeWord0 cat k
    w1 := if hasAddr k then busAddress cat a else 0
    w2 := if hasAlt cat k then BitVec.ofNat 32 ((cat.entry k).altValue.toNat % 2 ^ (8 * (cat.entry k).altSize)) else 0
    w3 := nbytesOf k payload
    payload := if dataDir k = 2 then payload else [] }

/-! ## Fields of the command word (R82) -/

def opcodeField (w : Word) : Byte := w.extractLsb' 0 8
def imodeField (w : Word) : BitVec 2 := w.extractLsb' 8 2
def admodeField (w : Word) : BitVec 2 := w.extractLsb' 10 2
def adsizeField (w : Word) : BitVec 2 := w.extractLsb' 12 2
def abmodeField (w : Word) : BitVec 2 := w.extractLsb' 14 2
def absizeField (w : Word) : BitVec 2 := w.extractLsb' 16 2
def dcycField (w : Word) : BitVec 5 := w.extractLsb' 18 5
def dmodeField (w : Word) : BitVec 2 := w.extractLsb' 23 2
def ddirField (w : Word) : BitVec 2 := w.extractLsb' 25 2
def dtrField (w : Word) : BitVec 1 := w.extractLsb' 27 1
def zeroField (w : Word) : BitVec 4 := w.extractLsb' 28 4

/-- No reserved encoding of R88 stands in the descriptor, and words 1 and 2 are 0 where their phase is absent
(R82). -/
def legalDescriptor (w0 w1 w2 : Word) : Bool :=
  imodeField w0 != 0 && ddirField w0 != 3 && zeroField w0 == 0
    && (admodeField w0 != 0 || (adsizeField w0 == 0 && w1 == 0))
    && (abmodeField w0 != 0 || (absizeField w0 == 0 && w2 == 0))

/-- The opcode byte alone, as opcode_table.json lists a bus command (mask 0xFF): no phase bits, words 1 and 2
zero (log 13). -/
def bareOpcode (w0 w1 w2 : Word) : Bool := w0.extractLsb' 8 24 == 0#24 && w1 == 0 && w2 == 0

/-! ## Encoding of instructions -/

/-- OP codes (R77); 0 for an instruction that is no request. -/
def opCode : Instr → BitVec 4
  | .init => 1
  | .program .. => 2
  | .eraseRange .. => 3
  | .eraseAll => 4
  | .checksum .. => 5
  | .verify .. => 6
  | _ => 0

/-- POLLSPEC words (R84). -/
def pollSpecWords (p : PollSpec) : List Word :=
  [p.mask.setWidth 32 ||| (p.value.setWidth 32 <<< 8), p.interval, p.timeout]

/-- The POLLSPEC that three words hold; none where word 0 [31:16] is not 0 (R84). -/
def pollSpecOf (w0 w1 w2 : Word) : Option PollSpec :=
  if w0.extractLsb' 16 16 = 0#16 then
    some { mask := w0.extractLsb' 0 8, value := w0.extractLsb' 8 8, interval := w1, timeout := w2 }
  else none

/-- A BUSCMD as a record (R82, R89). -/
def cmdRecord (c : BusCmd) : Record := { format := .busCmd, words := [c.w0, c.w1, c.w2, c.w3], payload := c.payload }

/-- A transport call as a record (R85): its kind, its BUSCMD, and the words after that. -/
def callRecord (kind : Word) (c : BusCmd) (tail : List Word) : Record :=
  { format := .xcall, words := [kind, c.w0, c.w1, c.w2, c.w3] ++ tail, payload := c.payload }

/-- The record of an instruction: HOSTREQ words (R76, a word the operation does not read is 0), the encoded BUSCMD
(R104), or the call kind with its operands (R85). A SEND of the command encoded last is
its kind alone, and `callRecord 0 c []` is the SEND of the command `c` (log 13). -/
def encode (cat : Catalog) (i : Instr) : Record :=
  match i with
  | .init | .eraseAll => { format := .hostReq, words := [(opCode i).setWidth 32, 0, 0, 0, 0], payload := [] }
  | .program start length buf =>
    { format := .hostReq, words := [(opCode i).setWidth 32, start, length, 0, buf], payload := [] }
  | .eraseRange start length =>
    { format := .hostReq, words := [(opCode i).setWidth 32, start, length, 0, 0], payload := [] }
  | .checksum start length seed =>
    { format := .hostReq, words := [(opCode i).setWidth 32, start, length, seed, 0], payload := [] }
  | .verify start length seed buf =>
    { format := .hostReq, words := [(opCode i).setWidth 32, start, length, seed, buf], payload := [] }
  | .resetEnable => cmdRecord (encodeCmd cat .resetEnable 0 [])
  | .reset => cmdRecord (encodeCmd cat .reset 0 [])
  | .writeEnable => cmdRecord (encodeCmd cat .writeEnable 0 [])
  | .readStatus => cmdRecord (encodeCmd cat .readStatus 0 [])
  | .pageProgram offset payload => cmdRecord (encodeCmd cat .pageProgram offset.toNat payload)
  | .sectorErase offset => cmdRecord (encodeCmd cat .sectorErase offset.toNat [])
  | .chipErase => cmdRecord (encodeCmd cat .chipErase 0 [])
  | .quadRead => cmdRecord (encodeCmd cat .quadRead 0 [])
  | .enter4Byte => cmdRecord (encodeCmd cat .enter4Byte 0 [])
  | .send => { format := .xcall, words := [0], payload := [] }
  | .poll spec => callRecord 1 (encodeCmd cat .readStatus 0 []) (pollSpecWords spec)
  | .map => callRecord 2 (encodeCmd cat .quadRead 0 []) []
  | .abort => { format := .xcall, words := [3], payload := [] }

/-! ## Decoding -/

/-- Why a record decodes to no instruction. -/
inductive DecodeError where
  /-- HOSTREQ with a reserved OP or a nonzero RSVD (R78). -/
  | illegalRequest
  /-- BUSCMD whose opcode byte no kind of the catalog has (R93). -/
  | unknownOpcode
  /-- BUSCMD descriptor that R88 says is never produced. -/
  | reservedDescriptor
  /-- BUSCMD whose payload is not NBYTES long (R89). -/
  | payloadLength
  /-- XCALL word with a bit above its 2-bit kind (R85). -/
  | reservedCall
  /-- POLLSPEC with a nonzero bit in word 0 [31:16] (R84). -/
  | reservedPollSpec
  /-- XCALL whose BUSCMD is not one the encoder makes for that call (R85, R88, R115, R116). -/
  | foreignCommand
  deriving DecidableEq, Repr

/-- HOSTREQ (R76 to R79): a request that is not illegal by R78. -/
def decodeReq (r : HostReq) : Option Instr :=
  if r.w0.extractLsb' 4 28 = 0#28 then
    match (r.w0.extractLsb' 0 4).toNat with
    | 1 => some .init
    | 2 => some (.program r.start r.length r.buf)
    | 3 => some (.eraseRange r.start r.length)
    | 4 => some .eraseAll
    | 5 => some (.checksum r.start r.length r.seed)
    | 6 => some (.verify r.start r.length r.seed r.buf)
    | _ => none
  else none

/-- The kinds in the order of R8. -/
def allKinds : List Kind :=
  [.resetEnable, .reset, .writeEnable, .readStatus, .pageProgram, .sectorErase, .chipErase, .quadRead, .enter4Byte]

/-- The kind whose catalog entry has this opcode byte (R93). -/
def kindOf (cat : Catalog) (op : Byte) : Option Kind := allKinds.find? (fun k => (cat.entry k).opcode == op)

/-- The instruction that encodes a kind with these operands. -/
def cmdInstr (k : Kind) (offset : Word) (payload : List Byte) : Instr :=
  match k with
  | .resetEnable => .resetEnable
  | .reset => .reset
  | .writeEnable => .writeEnable
  | .readStatus => .readStatus
  | .pageProgram => .pageProgram offset payload
  | .sectorErase => .sectorErase offset
  | .chipErase => .chipErase
  | .quadRead => .quadRead
  | .enter4Byte => .enter4Byte

/-- BUSCMD: the opcode byte selects the kind, word 1 is its offset, the payload follows when DDIR = 2 (R89). The
phase fields are the catalog's, so a record that carries them must carry a legal descriptor (R88). -/
def decodeCmd (cat : Catalog) (w0 w1 w2 w3 : Word) (payload : List Byte) : Except DecodeError Instr :=
  if bareOpcode w0 w1 w2 || legalDescriptor w0 w1 w2 then
    if payload.length = (if ddirField w0 = 2 then w3.toNat else 0) then
      match kindOf cat (opcodeField w0) with
      | some k => .ok (cmdInstr k w1 payload)
      | none => .error .unknownOpcode
    else .error .payloadLength
  else .error .reservedDescriptor

/-- The BUSCMD operand of a call (R85): the encoded command of some kind at the offset in ADDRESS, with all its words
and its payload; none where no kind encodes to it (R88). -/
def operandCmd (cat : Catalog) (w0 w1 w2 w3 : Word) (payload : List Byte) : Option BusCmd :=
  (allKinds.map (fun k => encodeCmd cat k w1.toNat payload)).find? fun c =>
    c.w0 == w0 && c.w1 == w1 && c.w2 == w2 && c.w3 == w3 && c.payload == payload

/-- The operand words of a record that leaves its BUSCMD out, as opcode_table.json lists a call (log 13). -/
def noOperand (w0 w1 w2 w3 : Word) (payload : List Byte) : Bool :=
  w0 == 0 && w1 == 0 && w2 == 0 && w3 == 0 && payload.isEmpty

/-- XCALL: kind 0 SEND with the BUSCMD that `recordCmd` reads, 1 POLL with the READ_STATUS command and a POLLSPEC, 2 MAP with the QUAD_READ
command, 3 ABORT (R85, R115, R116). -/
def decodeCall (cat : Catalog) (kind w0 w1 w2 w3 p0 p1 p2 : Word) (payload : List Byte) : Except DecodeError Instr :=
  let operand := operandCmd cat w0 w1 w2 w3 payload
  let absent := noOperand w0 w1 w2 w3 payload
  match kind.toNat with
  | 0 =>
    if absent || operand.isSome then .ok .send else .error .foreignCommand
  | 1 =>
    if absent || operand == some (encodeCmd cat .readStatus 0 []) then
      match pollSpecOf p0 p1 p2 with
      | some p => .ok (.poll p)
      | none => .error .reservedPollSpec
    else .error .foreignCommand
  | 2 => if absent || operand == some (encodeCmd cat .quadRead 0 []) then .ok .map else .error .foreignCommand
  | 3 => if absent then .ok .abort else .error .foreignCommand
  | _ => .error .reservedCall

/-- The BUSCMD that a transport call's record carries (R85). -/
def recordCmd (cat : Catalog) (r : Record) : Option BusCmd :=
  let w := fun n => r.words.getD n 0
  match r.format with
  | .xcall => operandCmd cat (w 1) (w 2) (w 3) (w 4) r.payload
  | .hostReq | .busCmd => none

/-- The request words of a record; a word that is not listed is 0. -/
def recordReq (r : Record) : HostReq :=
  { w0 := r.words.getD 0 0, start := r.words.getD 1 0, length := r.words.getD 2 0, seed := r.words.getD 3 0,
    buf := r.words.getD 4 0 }

/-- The decoder, total on every record: the instruction, or the name of what is wrong. -/
def decode (cat : Catalog) (r : Record) : Except DecodeError Instr :=
  match r.format with
  | .hostReq =>
    match decodeReq (recordReq r) with
    | some i => .ok i
    | none => .error .illegalRequest
  | .busCmd => decodeCmd cat (r.words.getD 0 0) (r.words.getD 1 0) (r.words.getD 2 0) (r.words.getD 3 0) r.payload
  | .xcall =>
    let w := fun n => r.words.getD n 0
    decodeCall cat (w 0) (w 1) (w 2) (w 3) (w 4) (w 5) (w 6) (w 7) r.payload

/-- The record that `nbits` bits `w` of opcode_table.json stand for: 32 bits are a HOSTREQ word; fewer are a bus
command's opcode byte where REFCAT has it, else a transport call's kind. The one clash, 0x02 (PAGE_PROGRAM's byte
and MAP's kind in a byte), goes to the row that fixes more bits (R93; log 13). -/
def tableRecord (nbits w : Nat) : Record :=
  if 8 < nbits then { format := .hostReq, words := [BitVec.ofNat 32 w], payload := [] }
  else if 2 < nbits && (kindOf refcat (BitVec.ofNat 8 w)).isSome then
    { format := .busCmd, words := [BitVec.ofNat 32 w], payload := [] }
  else { format := .xcall, words := [BitVec.ofNat 32 w], payload := [] }

/-- The instruction a row's bits decode to, or none where the decoder refuses them. REFCAT gives the opcode bytes,
as the table does. -/
def decodeTableWord (nbits w : Nat) : Option Instr :=
  match decode refcat (tableRecord nbits w) with
  | .ok i => some i
  | .error _ => none

end Sys2Proof
end

