-- ==== Sys2Proof/WellFormed.lean ====
section
/-! DEFINITION. Well-formedness of the configuration (R10, R100, R101, R133, 93 row 5) and of an instruction's
operands. A model refuses a configuration that is not well formed. -/

namespace Sys2Proof

/-- A width of R10: 0 absent, 1, 2 or 4. -/
def widthOk (n : Nat) : Bool := n == 0 || n == 1 || n == 2 || n == 4

/-- The widths, counts and sizes of one entry (R10, R100): an instruction phase is never absent. -/
def entryOk (e : CatEntry) : Bool :=
  widthOk e.ilines && e.ilines != 0 && widthOk e.alines && widthOk e.altLines && widthOk e.dlines
    && decide (e.dummyCycles ≤ 31) && decide (e.altSize ≤ 4)

/-- A phase that R101 gives the kind has a nonzero width. -/
def phasesOk (cat : Catalog) (k : Kind) : Bool :=
  (!hasAddr k || (cat.entry k).alines != 0)
    && (dataDir k == 0 || (cat.entry k).dlines != 0)
    && (!hasAlt cat k || (cat.entry k).altLines != 0)

/-- Only RESET_ENABLE and ENTER_4BYTE may be missing (R100). -/
def presenceOk (cat : Catalog) (k : Kind) : Bool :=
  k == .resetEnable || k == .enter4Byte || (cat.entry k).present

/-- FlashGeometry of R10. -/
def geometryOk (g : Geometry) : Bool :=
  decide (1 ≤ g.pageSize.toNat) && decide (1 ≤ g.sectorSize.toNat) && g.totalSize.toNat % g.sectorSize.toNat == 0

/-- The catalog's global fields (R10; a zero WEL_BIT or WIP_BIT is refused, R133 and 93 row 5). -/
def globalsOk (cat : Catalog) : Bool :=
  (cat.addressBytes == 3 || cat.addressBytes == 4) && cat.welBit != 0 && cat.wipBit != 0

/-- A well-formed configuration (R10). -/
def Cfg.wf (c : Cfg) : Bool :=
  geometryOk c.geom && globalsOk c.cat
    && allKinds.all (fun k => entryOk (c.cat.entry k) && phasesOk c.cat k && presenceOk c.cat k)

/-- No two kinds share an opcode byte. The spec does not ask it; the BUSCMD space can be read back only then. -/
def Catalog.distinctOpcodes (cat : Catalog) : Bool := (allKinds.map (fun k => (cat.entry k).opcode)).Nodup

/-- An instruction whose record holds all of it: an offset fits ADDRESS (R103), and a payload's length fits NBYTES
(R82). Every other operand fills its word. -/
def Instr.wf (cat : Catalog) : Instr → Bool
  | .pageProgram offset payload =>
    decide (offset.toNat < 2 ^ (8 * cat.addressBytes)) && decide (payload.length < 2 ^ 32)
  | .sectorErase offset => decide (offset.toNat < 2 ^ (8 * cat.addressBytes))
  | .init | .program .. | .eraseRange .. | .eraseAll | .checksum .. | .verify .. => true
  | .resetEnable | .reset | .writeEnable | .readStatus | .chipErase | .quadRead | .enter4Byte => true
  | .send | .poll .. | .map | .abort => true

end Sys2Proof
end

