-- ==== Sys2Proof/Machine/State.lean ====
section
/-! DEFINITION. The state of the machine: the block's registers (10_state.md), its host and its environment
(00_scope.md R3), the bus trace (R4), and the state after reset (70_reset_and_hazards.md R260). -/

namespace Sys2Proof.Machine

/-- MODE (R21). -/
inductive Mode where
  | indirect
  | mapped
  deriving DecidableEq, Repr

/-- ESTATE (R23). -/
inductive EState where
  | idle
  | welPending
  | cmdIssued
  | busyPolling
  | failed
  deriving DecidableEq, Repr

/-- STATUS of a response (R81). -/
inductive Status where
  | ok
  | busError
  | timedOut
  | initError
  | illegalRequest
  deriving DecidableEq, Repr

/-- Answer of a transport call (R13). Only POLL answers TIMED_OUT. -/
inductive Answer where
  | ok
  | busError
  | timedOut
  deriving DecidableEq, Repr

/-- One event of the bus trace (R4, R85), with its answer or the bytes it returned. -/
inductive Event where
  | send (cmd : BusCmd) (answer : Answer)
  | poll (cmd : BusCmd) (spec : PollSpec) (answer : Answer)
  | map (cmd : BusCmd) (answer : Answer)
  | abort (answer : Answer)
  | memRd (offset : Nat) (bytes : List Byte)
  | ramRd (address : Word) (byte : Byte)
  deriving DecidableEq, Repr

/-- The sequencer position (R24): `pos` is none while the block waits for a request, or the one line, an encoded
BUSCMD or transport call, at which the sequencer stands; `cmd` and `ret` are the pseudocode's locals `cmd` (R105)
and `r` (R135). -/
structure Sequencer where
  pos : Option Record
  cmd : BusCmd
  ret : Answer
  deriving DecidableEq, Repr

/-- CURSOR, REMAIN, CHUNK (R25). -/
structure Splitter where
  cursor : Word
  remain : Word
  chunk : Word
  deriving DecidableEq, Repr

/-- ECURSOR, EEND (R26): unbounded, so a step past 2^32 cannot wrap. -/
structure Eraser where
  ecursor : Nat
  eend : Nat
  deriving DecidableEq, Repr

/-- ACC, LEAD, TRIM, WADDR, TOTAL, CNT (R27). -/
structure Summer where
  acc : Word
  lead : BitVec 2
  trim : BitVec 2
  waddr : Word
  total : Nat
  cnt : Nat
  deriving DecidableEq, Repr

/-- VIDX, MM_VALID, MM_ADDR (R28). -/
structure Verifier where
  vidx : Word
  mmValid : Bool
  mmAddr : Word
  deriving DecidableEq, Repr

/-- P_MASK, P_MATCH, P_INTERVAL, P_TIMEOUT, P_SAMPLE, P_COUNT, HIT (R29, R33). -/
structure Poller where
  mask : Byte
  value : Byte
  interval : Word
  timeout : Word
  sample : Byte
  count : Nat
  hit : Bool
  deriving DecidableEq, Repr

/-- The response registers RSP_* (R30). -/
structure Response where
  status : Status
  errAddr : Word
  checksum : Word
  mmValid : Bool
  mmAddr : Word
  deriving DecidableEq, Repr

/-- A program or erase whose bytes are not known to hold their result (R37, R60): the runs (offset, length) it covers
and the number of its SEND among the program and erase commands. `known` while the device may be executing it and
nothing has gone wrong: the stored bytes already are its result, and a write-in-progress wait answered OK shows it. -/
structure InFlight where
  runs : List (Nat × Nat)
  epoch : Nat
  known : Bool
  deriving DecidableEq, Repr

/-- What is known of the device's own activity (R37): idle; executing the program or erase just sent; or perhaps still
busy, after a wait that failed or a command sent too early (R138, R265). -/
inductive Busy where
  | idle
  | executing
  | unsure
  deriving DecidableEq, Repr

/-- What is known of the write-enable latch (R32, R37): as the last status sample read it, or not known, no sample having
been read since the last command (log 9). -/
inductive Latch where
  | unknown
  | clear
  | set
  deriving DecidableEq, Repr

/-- What the environment answers to one transport call (R13): the number of samples after which it answers
BUS_ERROR (any number means BUS_ERROR for a call that is no poll), and the samples of a poll. -/
structure Draw where
  busErrorAfter : Option Nat
  samples : List Byte
  deriving DecidableEq, Repr

/-- The environment (R3 (3), R37, R38): stored bytes, the commands whose bytes are not known to hold their result (the
newest first), the device's activity, the write-enable latch as last read, the controller's own bus
mode, the answers to come, and two counters a free value is applied to: `epoch` counts the program and erase commands
sent, `tick` the calls and window reads. -/
structure Device where
  flash : List Host.Cell
  inflight : List InFlight
  busy : Busy
  wel : Latch
  ctrlMode : Mode
  script : List Draw
  epoch : Nat
  tick : Nat
  deriving DecidableEq, Repr

/-- A move of the host: a request, with the bytes it has put into its RAM for it (R36), or a block reset (R260). -/
inductive HostMove where
  | request (req : HostReq) (buffer : List (Word × Byte))
  | blockReset
  deriving DecidableEq, Repr

/-- The host (R3 (1)): its moves in order, and its RAM. -/
structure HostSide where
  moves : List HostMove
  ram : List Host.Cell
  deriving DecidableEq, Repr

/-- The machine. `cfg` is the configuration of R20, which no step writes. `esLog` lists the changes of `estate`
so far, so that R136 can be said of a step. -/
structure State where
  cfg : Cfg
  mode : Mode
  initDone : Bool
  estate : EState
  curOp : BitVec 4
  seq : Sequencer
  spl : Splitter
  ers : Eraser
  cks : Summer
  vfy : Verifier
  pol : Poller
  rsp : Response
  dev : Device
  host : HostSide
  trace : List Event
  esLog : List (EState × EState)
  deriving DecidableEq, Repr

/-- The spec gives the machine no stopping fault: every failure it describes is a response (R235, R236), a next
state. So there is no constructor. -/
inductive Fault where
  deriving DecidableEq, Repr

/-- Why the model has no step. -/
inductive Refusal where
  /-- An arm of `exec` that has no meaning yet. Raised by `exec` alone; safe. -/
  | notModelled (mnemonic : String)
  /-- The configuration is not well formed. Raised by `step` and by every instruction (R10, R88, R133); safe. -/
  | badConfig
  /-- A request other than INIT while INIT_DONE = 0. Raised by those five requests (R228); safe. -/
  | notInitialised
  /-- `start + length > 2^32 - 1`. Raised by PROGRAM, ERASE_RANGE, CHECKSUM, VERIFY (R63); safe. -/
  | rangeOverflow
  /-- SEND or POLL while MODE = MAPPED. Raised by those two (R21, R267); safe. -/
  | modeDiscipline
  /-- SEND of a command with a read data phase, READ_STATUS or QUAD_READ. Raised by SEND (R114); safe. -/
  | readCommandSent
  /-- A BUSCMD or XCALL record that decodes to no instruction (R88, R93). Raised by `step`; safe. -/
  | undecodable (reason : DecodeError)
  deriving DecidableEq, Repr

/-- The sequencer waiting for a request. The spec gives its locals no value at reset; `cmd` starts as the encoded
RESET command and `ret` as OK (DESIGN CHOICE, unsafe: log 12). -/
def Sequencer.start (cat : Catalog) : Sequencer :=
  { pos := none, cmd := encodeCmd cat .reset 0 [], ret := .ok }

/-- Every `RSP_*` field 0 (R260). -/
def Response.zero : Response := { status := .ok, errAddr := 0, checksum := 0, mmValid := false, mmAddr := 0 }

/-- The datapath registers after reset, which the spec leaves unspecified: all 0 (DESIGN CHOICE, unsafe: log 11). -/
def Splitter.zero : Splitter := { cursor := 0, remain := 0, chunk := 0 }
def Eraser.zero : Eraser := { ecursor := 0, eend := 0 }
def Summer.zero : Summer := { acc := 0, lead := 0, trim := 0, waddr := 0, total := 0, cnt := 0 }
def Verifier.zero : Verifier := { vidx := 0, mmValid := false, mmAddr := 0 }
def Poller.zero : Poller :=
  { mask := 0, value := 0, interval := 0, timeout := 0, sample := 0, count := 0, hit := false }

/-- The environment at reset: nothing known of the stored bytes (log 4), of the device's activity and latch (93 row 13; logs 5 and
9) or of the controller's mode (R261; log 19), and no answer fixed in advance (log 3). -/
def Device.start : Device :=
  { flash := [], inflight := [], busy := .unsure, wel := .unknown
    ctrlMode := if Config.freeMapped 0 then .mapped else .indirect
    script := [], epoch := 0, tick := 1 }

/-- The machine right after reset (R260): waiting for a request, with the configuration of D37 (DESIGN CHOICE:
log 2). -/
def State.reset : State :=
  { cfg := tcfg
    mode := .indirect
    initDone := false
    estate := .idle
    curOp := 0
    seq := Sequencer.start tcfg.cat
    spl := Splitter.zero
    ers := Eraser.zero
    cks := Summer.zero
    vfy := Verifier.zero
    pol := Poller.zero
    rsp := Response.zero
    dev := Device.start
    host := { moves := [], ram := [] }
    trace := []
    esLog := [] }

end Sys2Proof.Machine
end

