-- ==== Sys2Proof/Machine/Flags.lean ====
section
/-! DEFINITION. The comparator flag HIT, the poll budget and the poll loop (41_status_poller.md R130 to R133), and
the numeric codes of the enumerated registers (R21, R23, R81). -/

namespace Sys2Proof.Machine

/-- The comparator (R130): bitwise AND on 8 bits, then equality of all 8 bits. -/
def comparator (s mask value : Byte) : Bool := (s &&& mask) == value

/-- `POLL_BUDGET(i, t) = floor(t / max(i, 1)) + 1` (R131; log 16). -/
def pollBudget (interval timeout : Word) : Nat := timeout.toNat / max interval.toNat 1 + 1

/-- Sample `k` of a poll: as drawn, and a free value past the drawn ones (log 3). -/
def statusSample (d : Draw) (tick k : Nat) : Byte := d.samples.getD k (Config.freeSample tick k)

/-- The comparator registers after one sample (R131). -/
def takeSample (b : Byte) (p : Poller) : Poller :=
  { p with sample := b, hit := comparator b p.mask p.value, count := p.count + 1 }

/-- The loop of R131, with `budget` samples left: BUS_ERROR where it is drawn, OK at the first sample that hits,
TIMED_OUT when the budget is spent. -/
def pollLoop (d : Draw) (tick : Nat) : Nat → Poller → Answer × Poller
  | 0, p => (.timedOut, p)
  | budget + 1, p =>
    if d.busErrorAfter = some p.count then (.busError, p)
    else
      let q := takeSample (statusSample d tick p.count) p
      if q.hit then (.ok, q) else pollLoop d tick budget q

/-- The comparator registers at the start of a poll: P_MASK to P_TIMEOUT from the spec, P_COUNT 0 (R131). -/
def loadSpec (spec : PollSpec) (p : Poller) : Poller :=
  { p with mask := spec.mask, value := spec.value, interval := spec.interval, timeout := spec.timeout, count := 0 }

/-- A whole poll (R131). -/
def runPoll (d : Draw) (tick : Nat) (spec : PollSpec) (p : Poller) : Answer × Poller :=
  pollLoop d tick (pollBudget spec.interval spec.timeout) (loadSpec spec p)

/-- MODE as its bit (R21). -/
def modeBit : Mode → BitVec 1
  | .indirect => 0
  | .mapped => 1

/-- ESTATE as its three bits (R23). -/
def estateCode : EState → BitVec 3
  | .idle => 0
  | .welPending => 1
  | .cmdIssued => 2
  | .busyPolling => 3
  | .failed => 4

/-- STATUS as its four bits (R81). -/
def statusCode : Status → BitVec 4
  | .ok => 0
  | .busError => 1
  | .timedOut => 2
  | .initError => 3
  | .illegalRequest => 4

/-- The STATUS that reports an answer unchanged (R137). -/
def statusOf : Answer → Status
  | .ok => .ok
  | .busError => .busError
  | .timedOut => .timedOut

/-- The transitions of ESTATE that R136 allows. -/
def estateTransition : EState → EState → Bool
  | .idle, .welPending | .welPending, .cmdIssued | .cmdIssued, .busyPolling | .busyPolling, .idle => true
  | .idle, .failed | .welPending, .failed | .cmdIssued, .failed | .busyPolling, .failed => true
  | .failed, .idle => true
  | _, _ => false

end Sys2Proof.Machine
end

