-- ==== Sys2Proof/Machine/Operands.lean ====
section
/-! DEFINITION. Operand computations: rounding (R11), chunk sizes (R152), checksum span (R196), PollSpecs (R134),
the response words (R80), the integer view of a word (R51) and the bus address of an offset (R35). -/

namespace Sys2Proof.Machine

/-- `floor_k(a) = a - (a mod k)` (R11). -/
def floorTo (k a : Nat) : Nat := a - a % k

/-- `ceil4(a)` (R11). -/
def ceil4 (a : Nat) : Nat := a + (4 - a % 4) % 4

/-- `zext_32` of a byte (R11, R198). -/
def zext32 (b : Byte) : Word := b.setWidth 32

/-- FirstChunk (R152). -/
def firstChunk (pageSize start length : Word) : Word :=
  let c := pageSize - start % pageSize
  if length < c then length else c

/-- The next chunk: `min(page_size, REMAIN)` (R152). -/
def nextChunk (pageSize remain : Word) : Word := if remain < pageSize then remain else pageSize

/-- LEAD (R196). -/
def leadOf (start : Word) : BitVec 2 := start.setWidth 2

/-- TRIM: from the true end to the rounded-up end (R196, 90_conflicts.md C1). -/
def trimOf (e : Nat) : BitVec 2 := BitVec.ofNat 2 (ceil4 e - e)

/-- Sum of lanes `lo .. hi` of a window word, each zero-extended (R197, R198). -/
def laneSum (b : List Byte) (lo hi : Nat) : Word :=
  ((List.range' lo (hi + 1 - lo)).map (fun i => zext32 (b.getD i 0))).foldl (· + ·) 0

/-- What one word adds to ACC (R197): the first-word test comes before the last-word test. -/
def wordSum (b : List Byte) (lead trim : BitVec 2) (left : Nat) : Word :=
  if lead ≠ 0 then laneSum b lead.toNat 3
  else if trim ≠ 0 ∧ left = 4 then laneSum b 0 (3 - trim.toNat)
  else laneSum b 0 3

/-- Write-enable-latch wait (R134). -/
def welWait (cat : Catalog) : PollSpec :=
  { mask := cat.welBit, value := cat.welBit, interval := cat.pollInterval, timeout := cat.tWel }

/-- Write-in-progress wait with timeout `t` (R134). -/
def wipWait (cat : Catalog) (t : Word) : PollSpec :=
  { mask := cat.wipBit, value := 0, interval := cat.pollInterval, timeout := t }

/-- The timeout of the write-in-progress wait after a command (R134): `t_init` is INIT's. -/
def wipTimeout (cat : Catalog) : Kind → Word
  | .pageProgram => cat.tProgram
  | .sectorErase => cat.tSectorErase
  | .chipErase => cat.tChipErase
  | _ => cat.tInit

/-- The little-endian integer view of four window bytes (R51). -/
def wordView (b0 b1 b2 b3 : Byte) : Word := b3 ++ b2 ++ b1 ++ b0

/-- Where the window shows a flash offset (R35). No rule reads it. -/
def windowAddress (cfg : Cfg) (offset : Word) : Word := cfg.windowBase + offset

end Sys2Proof.Machine
end

