-- ==== Sys2Proof/Machine/Device.lean ====
section
/-! DEFINITION. The environment: memory as a list of (address, byte) in one canonical form, host RAM, the flash
device's reaction to a command (R34, R60, R67, R169, R263, 93 rows 6 to 8 and 29) and its answers (R13). -/

namespace Sys2Proof.Machine

/-! ## Memory -/

/-- The byte listed at an address. -/
def memFind : List Host.Cell → Nat → Option Byte
  | [], _ => none
  | c :: m, a => if c.1 = a then some c.2 else memFind m a

/-- Addresses strictly rise. An unlisted address holds no known byte, so no entry equals what it reads as. -/
def memWf : List Host.Cell → Bool
  | [] => true
  | c :: m => m.all (fun d => decide (c.1 < d.1)) && memWf m

/-- The cells `base, base+1, …` of `n` bytes, each given by its address. -/
def cellsFrom (f : Nat → Byte) : Nat → Nat → List Host.Cell
  | _, 0 => []
  | base, n + 1 => (base, f base) :: cellsFrom f (base + 1) n

/-- Write `f a` at every address `a` of `[base, base + n)`. -/
def memFill (m : List Host.Cell) (base n : Nat) (f : Nat → Byte) : List Host.Cell :=
  m.filter (fun c => decide (c.1 < base)) ++ cellsFrom f base n ++ m.filter (fun c => decide (base + n ≤ c.1))

/-- Write one byte. -/
def memWrite (m : List Host.Cell) (a : Nat) (b : Byte) : List Host.Cell := memFill m a 1 (fun _ => b)

/-- A stored flash byte: as listed, else the free value it has held since before reset (log 4). -/
def storedByte (m : List Host.Cell) (a : Nat) : Byte := (memFind m a).getD (Config.flashAtReset a)

/-- A host RAM byte: as listed, else the host's own (R36, D34; log 10). -/
def ramByte (m : List Host.Cell) (a : Word) : Byte := (memFind m a.toNat).getD (Config.hostByte a.toNat)

/-- The host puts a request's buffer into its RAM (R36, D29). -/
def ramStore (m : List Host.Cell) (buffer : List (Word × Byte)) : List Host.Cell :=
  buffer.foldl (fun m w => memWrite m w.1.toNat w.2) m

/-! ## Program and erase commands -/

/-- Whether an offset is in one of these runs (offset, length). -/
def inRuns (runs : List (Nat × Nat)) (a : Nat) : Bool :=
  runs.any (fun r => decide (r.1 ≤ a) && decide (a < r.1 + r.2))

/-- Write `f a` at every offset of these runs. -/
def fillRuns (m : List Host.Cell) (runs : List (Nat × Nat)) (f : Nat → Byte) : List Host.Cell :=
  runs.foldr (fun r m => memFill m r.1 r.2 f) m

/-- The offsets that `n` bytes programmed from `c` fall on: past the end of the page they wrap to its start (R263;
D28). -/
def pageRuns (p c n : Nat) : List (Nat × Nat) :=
  [(c, min n (p - c % p)), (floorTo p c, min (n - (p - c % p)) (c % p))]

/-- The offsets a command changes, by its kind and ADDRESS word: a page program inside its page (R109, R151, R263), a
sector erase the sector that contains ADDRESS (R110, R169, D28), a chip erase the whole device (R111, R169). Other
kinds change no byte (R34). -/
def commandRuns (cfg : Cfg) (cmd : BusCmd) : Option (List (Nat × Nat)) :=
  let s := cfg.geom.sectorSize.toNat
  match cmd.kind with
  | .pageProgram => some (pageRuns cfg.geom.pageSize.toNat cmd.w1.toNat cmd.payload.length)
  | .sectorErase => some [(floorTo s cmd.w1.toNat, s)]
  | .chipErase => some [(0, cfg.geom.totalSize.toNat)]
  | _ => none

/-- Whether these are flash offsets (R34). -/
def inGeometry (cfg : Cfg) (runs : List (Nat × Nat)) : Bool :=
  runs.all (fun r => decide (r.1 + r.2 ≤ cfg.geom.totalSize.toNat))

/-- The offsets that may change where a command names these: what it does out of geometry is not specified, so it may
change any byte (R62, 93 row 6; log 6). -/
def spanOf (cfg : Cfg) (runs : List (Nat × Nat)) : List (Nat × Nat) :=
  if inGeometry cfg runs then runs else [(0, cfg.geom.totalSize.toNat)]

/-- The offsets a command may change. -/
def commandSpan (cfg : Cfg) (cmd : BusCmd) : Option (List (Nat × Nat)) := (commandRuns cfg cmd).map (spanOf cfg)

/-- What a byte holds after the payload bytes that fall on it, the first of them `k` bytes into the payload and then
every `p` bytes: an erased byte takes the byte programmed; one that is not takes any value (R155, 93 row 7; D28;
log 7). -/
def programByte (eraseValue free : Byte) (p : Nat) : Nat → Byte → List Byte → Byte
  | _, old, [] => old
  | 0, old, d :: ds => programByte eraseValue free p (p - 1) (if old = eraseValue then d else free) ds
  | k + 1, old, _ :: ds => programByte eraseValue free p k old ds

/-- The byte a program or erase leaves at an offset it covers (R151, R169, R263). -/
def resultByte (cfg : Cfg) (cmd : BusCmd) (epoch : Nat) (m : List Host.Cell) (a : Nat) : Byte :=
  let p := cfg.geom.pageSize.toNat
  let c := cmd.w1.toNat
  match cmd.kind with
  | .pageProgram =>
    programByte cfg.geom.eraseValue (Config.freeFlash epoch a) p ((a - floorTo p c + p - c % p) % p) (storedByte m a)
      cmd.payload
  | _ => cfg.geom.eraseValue

/-- The bytes of this command hold any value from now on (R60, R154; 93 rows 8 and 29). -/
def forget (op : InFlight) : InFlight := { op with known := false }

/-- Whether the command covers an offset. -/
def covers (op : InFlight) (a : Nat) : Bool := inRuns op.runs a

/-- Whether some command whose bytes are not known to hold their result covers an offset. -/
def unsettled (d : Device) (a : Nat) : Bool := d.inflight.any (fun op => covers op a)

/-- The flash byte at an offset: the stored one, unless a command that was not seen to complete covers it: then any
value, one and the same until the next program or erase is sent (R53, R59, R200; 93 row 8; log 5). -/
def flashByte (d : Device) (a : Nat) : Byte :=
  match d.inflight.find? (fun op => covers op a) with
  | some op => Config.freeFlash op.epoch a
  | none => storedByte d.flash a

/-- The stored bytes with the values that commands not seen to complete have left. -/
def flashNow (d : Device) : List Host.Cell :=
  d.inflight.foldr (fun op m => fillRuns m op.runs (Config.freeFlash op.epoch)) d.flash

/-- Something other than a write-in-progress wait happens while the device may be executing a command: its result is
no longer known, nor whether it is still busy (R138, R265; 93 row 29; log 8). -/
def disturb (d : Device) : Device :=
  { d with
    inflight := d.inflight.map forget
    busy := if d.busy = .idle then .idle else .unsure }

/-- What the device does with a program or erase command is specified if its SEND was answered OK, the device is idle
(R265) and the offsets are in geometry (R62): 93 rows 6, 8 and 29 leave it open otherwise. -/
def specified (cfg : Cfg) (answer : Answer) (runs : List (Nat × Nat)) (d : Device) : Bool :=
  answer == .ok && d.busy == .idle && inGeometry cfg runs

/-- The command is accepted: the latch is set (R264). -/
def accepted (cfg : Cfg) (answer : Answer) (runs : List (Nat × Nat)) (d : Device) : Bool :=
  specified cfg answer runs d && d.wel == .set

/-- The command is not accepted: the latch is clear (R264). -/
def ignored (cfg : Cfg) (answer : Answer) (runs : List (Nat × Nat)) (d : Device) : Bool :=
  specified cfg answer runs d && d.wel == .clear

/-- The device's activity after a program or erase command: one whose SEND was answered BUS_ERROR leaves an idle device
idle (the model's choice: R138 and 93 row 29 name TIMED_OUT alone; log 29). -/
def busyAfterSend (answer : Answer) (b : Busy) : Busy :=
  if b ≠ .idle then .unsure else if answer = .ok then .executing else .idle

/-- The device takes a command (R34). It writes the result of an accepted program or erase into the stored bytes, and
one that is ignored changes nothing (R264; log 9). Any other leaves any value in the bytes it may change, and, sent
while the device may be busy, in those of the commands before it (93 rows 6, 8 and 29; log 8). After any command that
is not ignored the latch is unknown until it is read again. -/
def deviceSend (cfg : Cfg) (answer : Answer) (cmd : BusCmd) (d : Device) : Device :=
  match commandRuns cfg cmd with
  | none => { disturb d with wel := .unknown }
  | some runs =>
    let span := spanOf cfg runs
    let epoch := d.epoch + 1
    if accepted cfg answer runs d then
      { d with
        flash := fillRuns (flashNow d) span (resultByte cfg cmd epoch (flashNow d))
        inflight := [{ runs := span, epoch := epoch, known := true }]
        busy := .executing
        wel := .unknown
        epoch := epoch }
    else if ignored cfg answer runs d then { d with epoch := epoch }
    else
      { d with
        inflight := { runs := span, epoch := epoch, known := false } ::
          (if d.busy = .idle then d.inflight.map forget
            else d.inflight.map (fun op => { op with epoch := epoch, known := false }))
        busy := busyAfterSend answer d.busy
        wel := .unknown
        epoch := epoch }

/-- A wait for WIP to read 0 (R134). -/
def isWipWait (cfg : Cfg) (spec : PollSpec) : Bool := spec.mask == cfg.cat.wipBit && spec.value == 0

/-- The latch as the last sample of a poll read it (R32); a poll answered before any sample leaves what was known. -/
def latchSeen (cat : Catalog) (p : Poller) (known : Latch) : Latch :=
  if p.count = 0 then known
  else if comparator p.sample cat.welBit cat.welBit then .set
  else if comparator p.sample cat.welBit 0 then .clear
  else .unknown

/-- What a poll shows of the device, from its answer and the comparator registers it leaves; it changes no stored byte
(R59). Its last sample tells whether the latch is set (R264; log 9). A WIP wait answered OK saw the device idle, so the
command it was executing has its result (R66, R67, R134). A wait that fails leaves the bytes of that command at any
value (93 row 8). After a WIP wait answered TIMED_OUT the device may be busy, whatever was known of it before (R138,
R265; log 8). After one answered BUS_ERROR it is taken to be idle, unless it may have been busy before (the model's
choice: R138, R265 and 93 row 29 name TIMED_OUT alone; log 29). After any other poll that fails an idle device stays
idle, and one that was executing a command may be busy (log 8). -/
def devicePoll (cfg : Cfg) (answer : Answer) (spec : PollSpec) (p : Poller) (d : Device) : Device :=
  let d := { d with wel := latchSeen cfg.cat p d.wel }
  if isWipWait cfg spec then
    match answer with
    | .ok => { d with inflight := d.inflight.filter (fun op => !op.known), busy := .idle }
    | .timedOut => { disturb d with busy := .unsure }
    | .busError => { disturb d with busy := if d.busy = .executing then .idle else d.busy }
  else if answer = .ok then d
  else disturb d

/-- The device and controller across a block reset, which resets neither (R261): stored bytes stay; what was in
execution, the device's activity, the latch and the controller's mode are any value (93 row 13; log 23). -/
def deviceReset (d : Device) : Device :=
  { disturb d with
    busy := .unsure
    wel := .unknown
    ctrlMode := if Config.freeMapped d.tick then .mapped else .indirect
    tick := d.tick + 1 }

/-! ## Answers -/

/-- The environment's next answer: the script's, and a free one when the script is empty (93 row 9; log 3). -/
def nextDraw (d : Device) : Draw :=
  match d.script with
  | x :: _ => x
  | [] => { busErrorAfter := Config.freeBusError d.tick, samples := [] }

/-- One answer has been given. -/
def consumeDraw (d : Device) : Device := { d with script := d.script.tail, tick := d.tick + 1 }

/-- The answer of a call that is no poll: OK or BUS_ERROR (R13). -/
def callAnswer (x : Draw) : Answer := if x.busErrorAfter.isSome then .busError else .ok

/-- The controller's own mode after a toggle call: as asked where it answered OK, else any (R38; log 19). -/
def ctrlAfter (answer : Answer) (target : Mode) (d : Device) : Mode :=
  if answer = .ok then target else if Config.freeMapped d.tick then .mapped else .indirect

/-! ## Window reads -/

/-- The byte the window shows at an offset (R35, R67). Out of geometry it is any value, one and the same until the next
program or erase is sent (R53, R59, R200; 93 row 6; log 6). -/
def windowByte (cfg : Cfg) (d : Device) (a : Nat) : Byte :=
  if a < cfg.geom.totalSize.toNat then flashByte d a else Config.freeWindow d.epoch a

/-- The lanes of a window read: lane `i` is the byte at offset `a + i` (R14, R50). -/
def windowBytes (cfg : Cfg) (d : Device) (a n : Nat) : List Byte :=
  (List.range n).map (fun i => windowByte cfg d (a + i))

end Sys2Proof.Machine
end

