-- ==== Sys2Proof/Machine/Ops.lean ====
section
/-! DEFINITION. The operations every meaning is made of: ESTATE and the response (R15, R136, R236), the transport
calls (R114 to R117), the two reads (R14), the elementary command (R135), the mode toggle (R181 to R184), and what
`step` does around an instruction (R225, R226, R260). -/

namespace Sys2Proof.Machine

/-! ## ESTATE, completion and failure -/

/-- `ESTATE <- e`; a change is logged (R136; log 20). -/
def setEState (e : EState) (s : State) : State :=
  if s.estate = e then s else { s with estate := e, esLog := s.esLog ++ [(s.estate, e)] }

/-- End a request with these response fields: ESTATE and CUR_OP return to idle (R15, R225). -/
def respond (r : Response) (s : State) : State := setEState .idle { s with rsp := r, curOp := 0 }

/-- An OK response with no other field. -/
def okResponse : Response := Response.zero

/-- `raise Fail(kind, addr)` (R236): the failure is entered, reported, and left. -/
def fail (kind : Status) (addr : Word) (s : State) : State :=
  respond { Response.zero with status := kind, errAddr := addr } (setEState .failed s)

/-- A request in progress: it goes on from a state, or its response has been emitted (R15: no further call or
read). -/
inductive Run where
  | going (s : State)
  | ended (s : State)
  deriving DecidableEq, Repr

/-- Go on with the next lines unless the request has ended. -/
def andThen (r : Run) (f : State → Run) : Run :=
  match r with
  | .going s => f s
  | .ended s => .ended s

/-- The state a request leaves: `respond` with these fields if it got to its end. -/
def finish (r : Run) (f : State → State) : State :=
  match r with
  | .going s => f s
  | .ended s => s

/-! ## Calls and reads -/

/-- Append an event to the bus trace (R4, R65). -/
def emit (e : Event) (s : State) : State := { s with trace := s.trace ++ [e] }

/-- `cmd <- Encode(K, a, payload)` (R104): nothing but the sequencer's `cmd` changes. -/
def encodeOp (k : Kind) (a : Nat) (payload : List Byte) (s : State) : State :=
  { s with seq := { s.seq with cmd := encodeCmd s.cfg.cat k a payload } }

/-- `r <- Send(cmd)` (R114). -/
def sendOp (s : State) : State :=
  let answer := callAnswer (nextDraw s.dev)
  emit (.send s.seq.cmd answer)
    { s with
      seq := { s.seq with ret := answer }
      dev := consumeDraw (deviceSend s.cfg answer s.seq.cmd s.dev) }

/-- `r <- Poll(Encode(READ_STATUS, 0, []), spec)` (R115, R131). -/
def pollOp (spec : PollSpec) (s : State) : State :=
  let s := encodeOp .readStatus 0 [] s
  let result := runPoll (nextDraw s.dev) s.dev.tick spec s.pol
  emit (.poll s.seq.cmd spec result.1)
    { s with
      seq := { s.seq with ret := result.1 }
      pol := result.2
      dev := consumeDraw (devicePoll s.cfg result.1 spec result.2 s.dev) }

/-- `r <- EnterMapped(Encode(QUAD_READ, 0, []))` with its effect on MODE (R116, R182). QUAD_READ is a command too: it
disturbs a device that may be executing one (R265). -/
def mapOp (s : State) : State :=
  let s := encodeOp .quadRead 0 [] s
  let answer := callAnswer (nextDraw s.dev)
  emit (.map s.seq.cmd answer)
    { s with
      mode := if answer = .ok then .mapped else s.mode
      seq := { s.seq with ret := answer }
      dev := consumeDraw { disturb s.dev with ctrlMode := ctrlAfter answer .mapped s.dev } }

/-- `r <- Abort()` with its effect on MODE (R117, R181). -/
def abortOp (s : State) : State :=
  let answer := callAnswer (nextDraw s.dev)
  emit (.abort answer)
    { s with
      mode := if answer = .ok then .indirect else s.mode
      seq := { s.seq with ret := answer }
      dev := consumeDraw { s.dev with ctrlMode := ctrlAfter answer .indirect s.dev } }

/-- The lanes `b <- MemRead(a, n)` finds (R14, R35). -/
def readLanes (a n : Nat) (s : State) : List Byte := windowBytes s.cfg s.dev a n

/-- `MemRead(a, n)` as an event of the bus trace (R14, R85). -/
def memReadOp (a n : Nat) (s : State) : State :=
  emit (.memRd a (readLanes a n s)) { s with dev := { s.dev with tick := s.dev.tick + 1 } }

/-- `b <- RamRead(a, 1)` (R14, R36). -/
def ramReadOp (a : Word) (s : State) : State := emit (.ramRd a (ramByte s.host.ram a)) s

/-- If the last call failed, `raise Fail(r, ea)`: the answer is reported unchanged (R137). -/
def orFail (ea : Word) (s : State) : Run :=
  if s.seq.ret = .ok then .going s else .ended (fail (statusOf s.seq.ret) ea s)

/-- If the last call failed inside INIT, `raise Fail(INIT_ERROR, 0)` (R220). -/
def orInitError (s : State) : Run :=
  if s.seq.ret = .ok then .going s else .ended (fail .initError 0 s)

/-! ## The mode toggle -/

/-- EnsureIndirect (R183): ExitMapped (R181) when MODE = MAPPED. -/
def ensureIndirect (ea : Word) (s : State) : Run :=
  if s.mode = .mapped then orFail ea (abortOp s) else .going s

/-- EnsureMapped (R184): EnterMappedMode (R182) when MODE = INDIRECT. -/
def ensureMapped (ea : Word) (s : State) : Run :=
  if s.mode = .indirect then orFail ea (mapOp s) else .going s

/-! ## The elementary command -/

/-- `WCMD(K, a, payload, t, ea)` (R135, R92): write enable, WEL wait, command, WIP wait, each stopping the
expansion on a failing answer. -/
def wcmd (k : Kind) (a : Nat) (payload : List Byte) (t ea : Word) (s : State) : Run :=
  andThen (orFail ea (sendOp (encodeOp .writeEnable 0 [] s))) fun s =>
  andThen (orFail ea (pollOp (welWait s.cfg.cat) (setEState .welPending s))) fun s =>
  andThen (orFail ea (sendOp (encodeOp k a payload (setEState .cmdIssued s)))) fun s =>
  andThen (orFail ea (pollOp (wipWait s.cfg.cat t) (setEState .busyPolling s))) fun s =>
  .going (setEState .idle s)

/-- The lines WCMD expands to (R92): the bus commands and the calls, in order. -/
def wcmdLines (cat : Catalog) (k : Kind) (a : Word) (payload : List Byte) (t : Word) : List Instr :=
  [.writeEnable, .send, .poll (welWait cat), cmdInstr k a payload, .send, .poll (wipWait cat t)]

/-! ## Dispatch -/

/-- Dispatch of an accepted request (R225): CUR_OP and ESTATE. -/
def accept (op : BitVec 4) (s : State) : State := setEState .idle { s with curOp := op }

/-- The refusals before a request's first line (R10, R228, R63), in the order of R238. -/
def requestRefusal (needsInit : Bool) (extent : Nat) (s : State) : Option Refusal :=
  if s.cfg.wf = false then some .badConfig
  else if needsInit = true ∧ s.initDone = false then some .notInitialised
  else if 2 ^ 32 - 1 < extent then some .rangeOverflow
  else none

/-- Run a request that is not refused. `extent` is `start + length`, or 0 for a request that names no range. -/
def runRequest (op : BitVec 4) (needsInit : Bool) (extent : Nat) (body : State → State) (s : State) :
    Host.Outcome State Fault Refusal :=
  match requestRefusal needsInit extent s with
  | some r => .refused r
  | none => .next (body (accept op s))

/-- Run one line of the sequencer, a bus command or a transport call. -/
def runLine (refusal : Option Refusal) (body : State → State) (s : State) : Host.Outcome State Fault Refusal :=
  if s.cfg.wf = false then .refused .badConfig
  else
    match refusal with
    | some r => .refused r
    | none => .next (body s)

/-- IllegalResponse (R226): the response registers alone (log 18). -/
def illegalResponse (s : State) : State := { s with rsp := { Response.zero with status := .illegalRequest } }

/-- Block reset (R260): every register of the block; not the configuration (R20) nor the host. What is known of the
device and the controller afterwards is `deviceReset`'s (R261). -/
def blockReset (s : State) : State :=
  { s with
    mode := .indirect
    initDone := false
    estate := .idle
    curOp := 0
    seq := Sequencer.start s.cfg.cat
    spl := Splitter.zero
    ers := Eraser.zero
    cks := Summer.zero
    vfy := Verifier.zero
    pol := Poller.zero
    rsp := Response.zero
    dev := deviceReset s.dev }

/-- The host makes its move: a request's buffer is in its RAM when the request is issued (R36). -/
def takeMove (moves : List HostMove) (buffer : List (Word × Byte)) (s : State) : State :=
  { s with host := { moves := moves, ram := ramStore s.host.ram buffer } }

/-- Place a record where `step` fetches next: a request becomes the host's next move, a bus command or call the
line the sequencer stands at. A request other than INIT is fetched only after a successful INIT (R225, R228), which
placing it stands for (log 14). -/
def placeRecord (r : Record) (s : State) : State :=
  match r.format with
  | .hostReq =>
    { s with
      initDone := s.initDone || decodeReq (recordReq r) != some .init
      seq := { s.seq with pos := none }
      host := { s.host with moves := .request (recordReq r) [] :: s.host.moves } }
  | .busCmd | .xcall => { s with seq := { s.seq with pos := some r } }

/-- The sequencer leaves the line it stood at; the BUSCMD that a call's record carries becomes `cmd` (R85). -/
def leaveLine (r : Record) (s : State) : State :=
  { s with seq := { s.seq with pos := none, cmd := (recordCmd s.cfg.cat r).getD s.seq.cmd } }

/-- The four words of the response the registers hold (R80). -/
def responseWords (r : Response) : List Word :=
  [(statusCode r.status).setWidth 32 ||| ((BitVec.ofBool r.mmValid).setWidth 32 <<< 8), r.errAddr, r.checksum, r.mmAddr]

/-- An event as an XCALL record (R85): the call kind, the BUSCMD, and POLL's POLLSPEC. A read is no XCALL. -/
def eventRecord (e : Event) : Option Record :=
  match e with
  | .send c _ => some (callRecord 0 c [])
  | .poll c spec _ => some (callRecord 1 c (pollSpecWords spec))
  | .map c _ => some (callRecord 2 c [])
  | .abort _ => some { format := .xcall, words := [3], payload := [] }
  | .memRd .. | .ramRd .. => none

end Sys2Proof.Machine
end

