-- ==== Sys2Proof/Machine/BusCommands.lean ====
section
/-! DEFINITION. The nine bus commands as lines of the sequencer: each is `cmd <- Encode(K, a, payload)`
(40_command_encoder.md R105 to R113). The encoder writes no register of the block (R104). -/

namespace Sys2Proof.Machine

/-- RESET_ENABLE (R105). -/
def execResetEnable (s : State) : Host.Outcome State Fault Refusal := runLine none (encodeOp .resetEnable 0 []) s

/-- RESET (R106). -/
def execReset (s : State) : Host.Outcome State Fault Refusal := runLine none (encodeOp .reset 0 []) s

/-- WRITE_ENABLE (R107). -/
def execWriteEnable (s : State) : Host.Outcome State Fault Refusal := runLine none (encodeOp .writeEnable 0 []) s

/-- READ_STATUS (R108). -/
def execReadStatus (s : State) : Host.Outcome State Fault Refusal := runLine none (encodeOp .readStatus 0 []) s

/-- PAGE_PROGRAM (R109). -/
def execPageProgram (offset : Word) (payload : List Byte) (s : State) : Host.Outcome State Fault Refusal :=
  runLine none (encodeOp .pageProgram offset.toNat payload) s

/-- SECTOR_ERASE (R110). -/
def execSectorErase (offset : Word) (s : State) : Host.Outcome State Fault Refusal :=
  runLine none (encodeOp .sectorErase offset.toNat []) s

/-- CHIP_ERASE (R111). -/
def execChipErase (s : State) : Host.Outcome State Fault Refusal := runLine none (encodeOp .chipErase 0 []) s

/-- QUAD_READ (R112). -/
def execQuadRead (s : State) : Host.Outcome State Fault Refusal := runLine none (encodeOp .quadRead 0 []) s

/-- ENTER_4BYTE (R113). -/
def execEnter4Byte (s : State) : Host.Outcome State Fault Refusal := runLine none (encodeOp .enter4Byte 0 []) s

end Sys2Proof.Machine
end

