-- ==== Sys2Proof/Machine/Erase.lean ====
section
/-! DEFINITION. ERASE_RANGE and ERASE_ALL (43_erase_sequencer.md R165 to R168). -/

namespace Sys2Proof.Machine

/-- One pass of the loop of R165. The error address is the sector's offset. -/
def eraseSector (s : State) : Run :=
  andThen (wcmd .sectorErase s.ers.ecursor [] s.cfg.cat.tSectorErase (BitVec.ofNat 32 s.ers.ecursor) s) fun s =>
  .going { s with ers := { s.ers with ecursor := s.ers.ecursor + s.cfg.geom.sectorSize.toNat } }

/-- `while ECURSOR <= EEND` (R165, R166). ECURSOR rises by at least one each pass. -/
def eraseLoop : Nat → State → Run
  | 0, s => .going s
  | n + 1, s => if s.ers.ecursor ≤ s.ers.eend then andThen (eraseSector s) (eraseLoop n) else .going s

/-- ECURSOR and EEND before the loop (R165, R166). -/
def eraseStart (start length : Word) (s : State) : State :=
  { s with
    ers := { ecursor := floorTo s.cfg.geom.sectorSize.toNat start.toNat, eend := start.toNat + length.toNat } }

/-- The loop with enough passes for any sector size. -/
def eraseRun (s : State) : Run := eraseLoop (s.ers.eend + 1 - s.ers.ecursor) s

/-- ERASE_RANGE from its first line (R165). -/
def eraseRangeBody (start length : Word) (s : State) : State :=
  finish (andThen (ensureIndirect start s) fun s => eraseRun (eraseStart start length s)) (respond okResponse)

/-- ERASE_RANGE (R165). -/
def execEraseRange (start length : Word) (s : State) : Host.Outcome State Fault Refusal :=
  runRequest 3 true (start.toNat + length.toNat) (eraseRangeBody start length) s

/-- ERASE_ALL from its first line (R168). -/
def eraseAllBody (s : State) : State :=
  finish (andThen (ensureIndirect 0 s) fun s => wcmd .chipErase 0 [] s.cfg.cat.tChipErase 0 s) (respond okResponse)

/-- ERASE_ALL (R168). -/
def execEraseAll (s : State) : Host.Outcome State Fault Refusal := runRequest 4 true 0 eraseAllBody s

end Sys2Proof.Machine
end

