-- ==== Sys2Proof/Machine/Init.lean ====
section
/-! DEFINITION. INIT (46_init_and_dispatch.md R220). -/

namespace Sys2Proof.Machine

/-- `Send(Encode(K, 0, []))` inside INIT: BUS_ERROR is INIT_ERROR (R220). -/
def initSend (k : Kind) (s : State) : Run := orInitError (sendOp (encodeOp k 0 [] s))

/-- Whether INIT sends ENTER_4BYTE (R113, R220). -/
def sendsEnter4Byte (cat : Catalog) : Bool :=
  cat.addressBytes == 4 && cat.use4ByteEntry && cat.enter4Byte.present

/-- The calls of INIT, in the order of R220. -/
def initLines (s : State) : Run :=
  andThen (if s.mode = .mapped then orInitError (abortOp s) else .going s) fun s =>
  andThen (if s.cfg.cat.resetEnable.present then initSend .resetEnable s else .going s) fun s =>
  andThen (initSend .reset s) fun s =>
  andThen (orInitError (pollOp (wipWait s.cfg.cat s.cfg.cat.tInit) s)) fun s =>
  andThen (if sendsEnter4Byte s.cfg.cat then initSend .enter4Byte s else .going s) fun s =>
  if s.cfg.cat.xipAfterInit then orInitError (mapOp s) else .going s

/-- INIT from its first line (R220): INIT_DONE is cleared at the start and set at the end. -/
def initBody (s : State) : State :=
  finish (initLines { s with initDone := false }) fun s => respond okResponse { s with initDone := true }

/-- INIT (R220). -/
def execInit (s : State) : Host.Outcome State Fault Refusal := runRequest 1 false 0 initBody s

end Sys2Proof.Machine
end

