-- ==== Sys2Proof/Machine/Program.lean ====
section
/-! DEFINITION. PROGRAM, the page-address splitter (42_page_write_splitter.md R150 to R152). -/

namespace Sys2Proof.Machine

/-- The payload reads of a chunk: `n` bytes of host RAM from `a` on, each an event (R150, R151). -/
def readPayload : Nat → Word → State → List Byte × State
  | 0, _, s => ([], s)
  | n + 1, a, s =>
    let r := readPayload n (a + 1) (ramReadOp a s)
    (ramByte s.host.ram a :: r.1, r.2)

/-- CURSOR, REMAIN and CHUNK after a chunk (R150, R152). -/
def advanceChunk (s : State) : State :=
  let remain := s.spl.remain - s.spl.chunk
  { s with
    spl := { cursor := s.spl.cursor + s.spl.chunk, remain := remain, chunk := nextChunk s.cfg.geom.pageSize remain } }

/-- One pass of the loop of R150: read the payload, program it, advance. The error address is the chunk's start. -/
def programChunk (start buf : Word) (s : State) : Run :=
  let p := readPayload s.spl.chunk.toNat (buf + (s.spl.cursor - start)) s
  andThen (wcmd .pageProgram s.spl.cursor.toNat p.1 s.cfg.cat.tProgram s.spl.cursor p.2) fun s => .going (advanceChunk s)

/-- `while REMAIN > 0` (R150). Each pass takes at least one byte, so `length` passes are enough. -/
def programLoop (start buf : Word) : Nat → State → Run
  | 0, s => .going s
  | n + 1, s =>
    if s.spl.remain = 0 then .going s else andThen (programChunk start buf s) (programLoop start buf n)

/-- CURSOR, REMAIN and CHUNK before the loop (R150, R152). -/
def splitStart (start length : Word) (s : State) : State :=
  { s with spl := { cursor := start, remain := length, chunk := firstChunk s.cfg.geom.pageSize start length } }

/-- PROGRAM from its first line (R150). -/
def programBody (start length buf : Word) (s : State) : State :=
  if length = 0 then respond okResponse s
  else
    finish
      (andThen (ensureIndirect start s) fun s => programLoop start buf length.toNat (splitStart start length s))
      (respond okResponse)

/-- PROGRAM (R150). -/
def execProgram (start length buf : Word) (s : State) : Host.Outcome State Fault Refusal :=
  runRequest 2 true (start.toNat + length.toNat) (programBody start length buf) s

end Sys2Proof.Machine
end

