-- ==== Sys2Proof/Machine/Transport.lean ====
section
/-! DEFINITION. The four transport calls as lines of the sequencer (40_command_encoder.md R114 to R117). -/

namespace Sys2Proof.Machine

/-- A Send or Poll may not be issued while the window is mapped (R21, R267). -/
def indirectOnly (s : State) : Option Refusal := if s.mode = .mapped then some .modeDiscipline else none

/-- What SEND may not carry: a command with a read data phase, READ_STATUS or QUAD_READ (R114). Two commands that no
rule ever sends, ENTER_4BYTE with three address bytes (R113) and a RESET_ENABLE that is not present (R105), are sent
where a SEND line carries them: that is the model's choice (log 31). -/
def sendRefusal (s : State) : Option Refusal :=
  match indirectOnly s with
  | some r => some r
  | none => if ddirField s.seq.cmd.w0 = 1 then some .readCommandSent else none

/-- SEND (R114): sends `cmd`. -/
def execSend (s : State) : Host.Outcome State Fault Refusal := runLine (sendRefusal s) sendOp s

/-- POLL (R115, R131). -/
def execPoll (spec : PollSpec) (s : State) : Host.Outcome State Fault Refusal :=
  runLine (indirectOnly s) (pollOp spec) s

/-- MAP (R116, R182). R182 calls it only while MODE = INDIRECT and gives no effect for a MAP line while MODE = MAPPED:
that the line runs as it does in INDIRECT is the model's choice (log 30). -/
def execMap (s : State) : Host.Outcome State Fault Refusal := runLine none mapOp s

/-- ABORT (R117, R181). R181 calls it only while MODE = MAPPED and gives no effect for an ABORT line while MODE =
INDIRECT: that the line runs as it does in MAPPED is the model's choice (log 30). -/
def execAbort (s : State) : Host.Outcome State Fault Refusal := runLine none abortOp s

end Sys2Proof.Machine
end

