-- ==== Sys2Proof/Machine/Verify.lean ====
section
/-! DEFINITION. CHECKSUM and VERIFY (45_checksum_verify.md R195 to R198, R205). -/

namespace Sys2Proof.Machine

/-- The set-up of ChecksumCore (R196): TRIM and TOTAL are measured from the true end. -/
def checksumStart (start length seed : Word) (s : State) : State :=
  let e := start.toNat + length.toNat
  { s with
    cks :=
      { acc := seed, lead := leadOf start, trim := trimOf e, waddr := BitVec.ofNat 32 (floorTo 4 start.toNat)
        total := ceil4 e - floorTo 4 start.toNat, cnt := 0 } }

/-- The registers after a word with these lanes (R197): LEAD is cleared once used. -/
def addWord (b : List Byte) (c : Summer) : Summer :=
  { c with acc := c.acc + wordSum b c.lead c.trim (c.total - c.cnt), lead := 0, cnt := c.cnt + 4 }

/-- One pass of the loop of R197. -/
def checksumWord (s : State) : State :=
  let a := s.cks.waddr.toNat + s.cks.cnt
  { memReadOp a 4 s with cks := addWord (readLanes a 4 s) s.cks }

/-- `while CNT < TOTAL` (R197). -/
def checksumLoop : Nat → State → State
  | 0, s => s
  | n + 1, s => if s.cks.cnt < s.cks.total then checksumLoop n (checksumWord s) else s

/-- ChecksumCore (R196, R197): the result is left in ACC. -/
def checksumCore (start length seed : Word) (s : State) : State :=
  let s := checksumStart start length seed s
  checksumLoop s.cks.total s

/-- CHECKSUM from its first line (R195). -/
def checksumBody (start length seed : Word) (s : State) : State :=
  if length = 0 then respond { okResponse with checksum := seed } s
  else
    finish (ensureMapped start s) fun s =>
      let s := checksumCore start length seed s
      respond { okResponse with checksum := s.cks.acc } s

/-- CHECKSUM (R195). -/
def execChecksum (start length seed : Word) (s : State) : Host.Outcome State Fault Refusal :=
  runRequest 5 true (start.toNat + length.toNat) (checksumBody start length seed) s

/-- The comparator's registers once a byte pair differs (R205). -/
def noteMismatch (start : Word) (s : State) : State :=
  { s with vfy := { s.vfy with mmValid := true, mmAddr := start + s.vfy.vidx } }

/-- The loop of R205, with `n` bytes left: the flash byte is read before the RAM byte (D23), and the first mismatch
ends the request. -/
def verifyLoop (start buf ck : Word) : Nat → State → State
  | 0, s => respond { okResponse with checksum := ck } s
  | n + 1, s =>
    let f := (readLanes (start + s.vfy.vidx).toNat 1 s).getD 0 0
    let r := ramByte s.host.ram (buf + s.vfy.vidx)
    let t := ramReadOp (buf + s.vfy.vidx) (memReadOp (start + s.vfy.vidx).toNat 1 s)
    if f = r then verifyLoop start buf ck n { t with vfy := { t.vfy with vidx := t.vfy.vidx + 1 } }
    else
      let t := noteMismatch start t
      respond { okResponse with checksum := ck, mmValid := true, mmAddr := t.vfy.mmAddr } t

/-- MM_VALID and VIDX before the loop (R205). -/
def verifyStart (s : State) : State := { s with vfy := { s.vfy with mmValid := false, vidx := 0 } }

/-- VERIFY from its first line (R205): the checksum is complete before the first byte is compared. -/
def verifyBody (start length seed buf : Word) (s : State) : State :=
  if length = 0 then respond { okResponse with checksum := seed } s
  else
    finish (ensureMapped start s) fun s =>
      let s := checksumCore start length seed s
      verifyLoop start buf s.cks.acc length.toNat (verifyStart s)

/-- VERIFY (R205). -/
def execVerify (start length seed buf : Word) (s : State) : Host.Outcome State Fault Refusal :=
  runRequest 6 true (start.toNat + length.toNat) (verifyBody start length seed buf) s

end Sys2Proof.Machine
end

