-- ==== Sys2Proof/Machine/Dispatch.lean ====
section
/-! DEFINITION. One arm per instruction, each one call of its meaning. -/

namespace Sys2Proof.Machine

def exec (i : Instr) (s : State) : Host.Outcome State Fault Refusal :=
  match i with
  | .init => Sys2Proof.Machine.execInit s
  | .program start length buf => Sys2Proof.Machine.execProgram start length buf s
  | .eraseRange start length => Sys2Proof.Machine.execEraseRange start length s
  | .eraseAll => Sys2Proof.Machine.execEraseAll s
  | .checksum start length seed => Sys2Proof.Machine.execChecksum start length seed s
  | .verify start length seed buf => Sys2Proof.Machine.execVerify start length seed buf s
  | .resetEnable => Sys2Proof.Machine.execResetEnable s
  | .reset => Sys2Proof.Machine.execReset s
  | .writeEnable => Sys2Proof.Machine.execWriteEnable s
  | .readStatus => Sys2Proof.Machine.execReadStatus s
  | .pageProgram offset payload => Sys2Proof.Machine.execPageProgram offset payload s
  | .sectorErase offset => Sys2Proof.Machine.execSectorErase offset s
  | .chipErase => Sys2Proof.Machine.execChipErase s
  | .quadRead => Sys2Proof.Machine.execQuadRead s
  | .enter4Byte => Sys2Proof.Machine.execEnter4Byte s
  | .send => Sys2Proof.Machine.execSend s
  | .poll spec => Sys2Proof.Machine.execPoll spec s
  | .map => Sys2Proof.Machine.execMap s
  | .abort => Sys2Proof.Machine.execAbort s

end Sys2Proof.Machine
end

