-- ==== Sys2Proof/Machine/Step.lean ====
section
/-! DEFINITION. One step: the line the sequencer stands at, or else the host's next move (R3, R24, R225). A request
runs to its response within one step (R4; log 1). -/

namespace Sys2Proof.Machine

/-- A configuration that is not well formed is refused (R10). A sequencer that stands at a line runs it; else the
host's next request is decoded and run, or answered ILLEGAL_REQUEST (R78, R226); with no move to make, the block
waits (R260). -/
def step (s : State) : Host.Outcome State Fault Refusal :=
  if s.cfg.wf = false then .refused .badConfig
  else
    match s.seq.pos with
    | some r =>
      match decode s.cfg.cat r with
      | .ok i => exec i (leaveLine r s)
      | .error e => .refused (.undecodable e)
    | none =>
      match s.host.moves with
      | [] => .next s
      | .blockReset :: moves => .next (blockReset (takeMove moves [] s))
      | .request req buffer :: moves =>
        match decodeReq req with
        | some i => exec i (takeMove moves buffer s)
        | none => .next (illegalResponse (takeMove moves buffer s))

/-- The instruction of a table row placed where `step` fetches next (log 14). -/
def State.withFetchWord (s : State) (nbits w : Nat) : State := placeRecord (tableRecord nbits w) s

end Sys2Proof.Machine
end

