-- ==== Sys2Proof/Machine/Text.lean ====
section
/-! DEFINITION. The textual forms of requests, events and responses (30_encoding.md R90, R91). No step reads them. -/

namespace Sys2Proof.Machine

/-! ## Numbers -/

/-- One hexadecimal digit. -/
def hexDigit (n : Nat) : Char := ['0', '1', '2', '3', '4', '5', '6', '7', '8', '9', 'A', 'B', 'C', 'D', 'E', 'F'].getD n '0'

/-- At most `fuel` hexadecimal digits of a number, before `tail`. -/
def hexDigits : Nat → Nat → List Char → List Char
  | 0, _, tail => tail
  | fuel + 1, n, tail => if n < 16 then hexDigit n :: tail else hexDigits fuel (n / 16) (hexDigit (n % 16) :: tail)

/-- A number as `0x` hexadecimal with no leading zero. -/
def hexText (n : Nat) : String := "0x" ++ String.ofList (hexDigits 16 n [])

/-- A byte as two hexadecimal digits. -/
def byteText (b : Byte) : String := String.ofList [hexDigit (b.toNat / 16), hexDigit (b.toNat % 16)]

/-- A word as eight hexadecimal digits. -/
def wordText (w : Word) : String :=
  "0x" ++ byteText (w.extractLsb' 24 8) ++ byteText (w.extractLsb' 16 8) ++ byteText (w.extractLsb' 8 8)
    ++ byteText (w.extractLsb' 0 8)

/-- A number in decimal. -/
def decimalText (n : Nat) : String := String.ofList (Nat.toDigits 10 n)

/-- Bytes in order. -/
def bytesText (bs : List Byte) : String := String.intercalate " " (bs.map byteText)

/-! ## Names -/

/-- `<KIND>` (R91, R102). -/
def kindText : Kind → String
  | .resetEnable => "RESET_ENABLE"
  | .reset => "RESET"
  | .writeEnable => "WRITE_ENABLE"
  | .readStatus => "READ_STATUS"
  | .pageProgram => "PAGE_PROGRAM"
  | .sectorErase => "SECTOR_ERASE"
  | .chipErase => "CHIP_ERASE"
  | .quadRead => "QUAD_READ"
  | .enter4Byte => "ENTER_4BYTE"

/-- `<answer>`. -/
def answerText : Answer → String
  | .ok => "OK"
  | .busError => "BUS_ERROR"
  | .timedOut => "TIMED_OUT"

/-- `<STATUS>` (R81). -/
def statusText : Status → String
  | .ok => "OK"
  | .busError => "BUS_ERROR"
  | .timedOut => "TIMED_OUT"
  | .initError => "INIT_ERROR"
  | .illegalRequest => "ILLEGAL_REQUEST"

/-! ## Requests (R90) -/

/-- A request as text; none for an instruction that is no request. -/
def requestText : Instr → Option String
  | .init => some "INIT"
  | .program start length buf =>
    some ("PROGRAM " ++ String.intercalate ", " [hexText start.toNat, hexText length.toNat, hexText buf.toNat])
  | .eraseRange start length => some ("ERASE_RANGE " ++ String.intercalate ", " [hexText start.toNat, hexText length.toNat])
  | .eraseAll => some "ERASE_ALL"
  | .checksum start length seed =>
    some ("CHECKSUM " ++ String.intercalate ", " [hexText start.toNat, hexText length.toNat, hexText seed.toNat])
  | .verify start length seed buf =>
    some ("VERIFY "
      ++ String.intercalate ", " [hexText start.toNat, hexText length.toNat, hexText seed.toNat, hexText buf.toNat])
  | _ => none

/-- The value of a digit below `base`. -/
def digitValue (base : Nat) (c : Char) : Option Nat :=
  let v := if '0' ≤ c ∧ c ≤ '9' then c.toNat - 48
    else if 'A' ≤ c ∧ c ≤ 'F' then c.toNat - 55
    else if 'a' ≤ c ∧ c ≤ 'f' then c.toNat - 87
    else base
  if v < base then some v else none

/-- Digits read most significant first, after what is already read. -/
def parseDigits (base : Nat) : Nat → List Char → Option Nat
  | acc, [] => some acc
  | acc, c :: cs =>
    match digitValue base c with
    | some v => parseDigits base (acc * base + v) cs
    | none => none

/-- A decimal or `0x` hexadecimal number that fits a word (R90). -/
def parseWord (cs : List Char) : Option Word :=
  let n := match cs with
    | '0' :: 'x' :: d :: ds => parseDigits 16 0 (d :: ds)
    | d :: ds => parseDigits 10 0 (d :: ds)
    | [] => none
  match n with
  | some v => if v < 2 ^ 32 then some (BitVec.ofNat 32 v) else none
  | none => none

/-- The pieces between separators. -/
def pieces (sep : Char) : List Char → List (List Char)
  | [] => [[]]
  | c :: cs =>
    if c = sep then [] :: pieces sep cs
    else
      match pieces sep cs with
      | [] => [[c]]
      | w :: ws => (c :: w) :: ws

/-- The comma-separated numbers of a request, with blanks left out. -/
def parseOperands (cs : List Char) : Option (List Word) :=
  match cs.filter (fun c => c != ' ') with
  | [] => some []
  | d :: ds => (pieces ',' (d :: ds)).mapM parseWord

/-- A request read from its text (R90). -/
def parseRequest (text : String) : Option Instr :=
  let cs := text.toList
  match String.ofList (cs.takeWhile (fun c => c != ' ')), parseOperands (cs.dropWhile (fun c => c != ' ')) with
  | "INIT", some [] => some .init
  | "PROGRAM", some [start, length, buf] => some (.program start length buf)
  | "ERASE_RANGE", some [start, length] => some (.eraseRange start length)
  | "ERASE_ALL", some [] => some .eraseAll
  | "CHECKSUM", some [start, length, seed] => some (.checksum start length seed)
  | "VERIFY", some [start, length, seed, buf] => some (.verify start length seed buf)
  | _, _ => none

/-! ## Events and responses (R91) -/

/-- One line of a trace: a SEND names its address and payload where it has them. R91 does not say which address `<a>`
is: the model prints the ADDRESS word, which is the offset truncated by R103 (the model's choice; log 32). -/
def eventText : Event → String
  | .send cmd _ =>
    "SEND " ++ kindText cmd.kind
      ++ (if hasAddr cmd.kind then " addr=" ++ hexText cmd.w1.toNat else "")
      ++ (if cmd.payload = [] then "" else " data=" ++ bytesText cmd.payload)
  | .poll _ spec answer =>
    "POLL " ++ byteText spec.mask ++ "/" ++ byteText spec.value ++ " t=" ++ decimalText spec.timeout.toNat ++ " -> "
      ++ answerText answer
  | .map _ answer => "MAP QUAD_READ -> " ++ answerText answer
  | .abort answer => "ABORT -> " ++ answerText answer
  | .memRd offset bytes =>
    "MEMRD " ++ hexText offset ++ "," ++ decimalText bytes.length ++ " -> " ++ bytesText bytes
  | .ramRd address byte => "RAMRD " ++ hexText address.toNat ++ " -> " ++ byteText byte

/-- A response: the error address of a failure, the checksum of a CHECKSUM or VERIFY (`summed`), a mismatch. -/
def responseText (summed : Bool) (r : Response) : String :=
  "=> " ++ statusText r.status
    ++ (if r.status = .ok ∨ r.status = .illegalRequest then "" else " err=" ++ hexText r.errAddr.toNat)
    ++ (if summed ∧ r.status = .ok then " ck=" ++ wordText r.checksum else "")
    ++ (if r.mmValid then " mm=" ++ hexText r.mmAddr.toNat else "")

end Sys2Proof.Machine
end

