-- ==== Sys2Proof/Safety.lean ====
section
/-! DEFINITION. The terms the claims are made in: the mode discipline of a bus trace (R180), an environment that
answers a list of calls OK, the traces and lists the rules describe, sums of flash bytes (R199), and the machine's
invariant. -/

namespace Sys2Proof.Machine

/-! ## Bus traces -/

/-- The answer an event of a transport call carries; a read has none. -/
def eventAnswer : Event → Option Answer
  | .send _ a | .poll _ _ a | .map _ a | .abort a => some a
  | .memRd .. | .ramRd .. => none

/-- A read, or a call answered OK. -/
def answeredOk (e : Event) : Bool := eventAnswer e == none || eventAnswer e == some .ok

/-- The mode after an event, from the mode before it: only a MAP or ABORT answered OK moves it (R181, R182). -/
def modeAfter (m : Mode) : Event → Mode
  | .map _ .ok => .mapped
  | .abort .ok => .indirect
  | _ => m

/-- Whether the block may have this event in this mode (R14, R21, R180 to R182). -/
def allowedIn (m : Mode) : Event → Bool
  | .send .. | .poll .. | .map .. => m == .indirect
  | .memRd .. | .abort _ => m == .mapped
  | .ramRd .. => true

/-- Every event stands in a mode that allows it, the mode being moved by the events themselves (R180). -/
def disciplined : Mode → List Event → Bool
  | _, [] => true
  | m, e :: es => allowedIn m e && disciplined (modeAfter m e) es

/-- The mode after a list of events. -/
def modeAfterAll (m : Mode) (es : List Event) : Mode := es.foldl modeAfter m

/-- A command that changes flash: PAGE_PROGRAM, SECTOR_ERASE or CHIP_ERASE (R34). -/
def changesFlash : Kind → Bool
  | .pageProgram | .sectorErase | .chipErase => true
  | _ => false

/-- The STATUS that reports a failing answer: INIT reports INIT_ERROR, every other request the answer itself (R137). -/
def failureStatus (i : Instr) (a : Answer) : Status := if i = .init then .initError else statusOf a

/-- The six requests (R77). -/
def isRequest : Instr → Bool
  | .init | .program .. | .eraseRange .. | .eraseAll | .checksum .. | .verify .. => true
  | .resetEnable | .reset | .writeEnable | .readStatus | .pageProgram .. | .sectorErase .. => false
  | .chipErase | .quadRead | .enter4Byte | .send | .poll .. | .map | .abort => false

/-- The opcode space of an instruction (R93). -/
def formatOf : Instr → Format
  | .init | .program .. | .eraseRange .. | .eraseAll | .checksum .. | .verify .. => .hostReq
  | .resetEnable | .reset | .writeEnable | .readStatus | .pageProgram .. | .sectorErase .. => .busCmd
  | .chipErase | .quadRead | .enter4Byte => .busCmd
  | .send | .poll .. | .map | .abort => .xcall

/-! ## An environment that answers OK -/

/-- A transport call as the environment sees it. -/
inductive Call where
  | plain
  | poll (spec : PollSpec)
  deriving DecidableEq, Repr

/-- The draw answers this call OK: no BUS_ERROR is drawn, and a poll has a hit among its listed samples within its
budget (R131). -/
def drawObliges : Call → Draw → Bool
  | .plain, d => d.busErrorAfter == none
  | .poll spec, d =>
    d.busErrorAfter == none
      && (d.samples.take (pollBudget spec.interval spec.timeout)).any (fun b => comparator b spec.mask spec.value)

/-- The script answers these calls OK, in order. -/
def obliges : List Call → List Draw → Bool
  | [], _ => true
  | c :: cs, d :: ds => drawObliges c d && obliges cs ds
  | _ :: _, [] => false

/-- The calls of one elementary command with WIP timeout `t` (R135). -/
def wcmdCalls (cat : Catalog) (t : Word) : List Call :=
  [.plain, .poll (welWait cat), .plain, .poll (wipWait cat t)]

/-- The mode toggle a request starts with (R183, R184): one call if the mode is not the one it needs. -/
def toggleCalls (target mode : Mode) : List Call := if mode = target then [] else [.plain]

/-- The calls of INIT (R220). -/
def initCalls (cat : Catalog) (mode : Mode) : List Call :=
  toggleCalls .indirect mode ++ (if cat.resetEnable.present then [.plain] else [])
    ++ [.plain, .poll (wipWait cat cat.tInit)]
    ++ (if sendsEnter4Byte cat then [.plain] else []) ++ (if cat.xipAfterInit then [.plain] else [])

/-! ## The traces the rules describe, every call answered OK -/

/-- The mode toggle's event (R181 to R184). -/
def toggleTrace (cat : Catalog) (target mode : Mode) : List Event :=
  if mode = target then []
  else
    match target with
    | .indirect => [.abort .ok]
    | .mapped => [.map (encodeCmd cat .quadRead 0 []) .ok]

/-- The four events of WCMD (R92, R135). -/
def wcmdTrace (cat : Catalog) (k : Kind) (a : Nat) (payload : List Byte) (t : Word) : List Event :=
  [.send (encodeCmd cat .writeEnable 0 []) .ok,
   .poll (encodeCmd cat .readStatus 0 []) (welWait cat) .ok,
   .send (encodeCmd cat k a payload) .ok,
   .poll (encodeCmd cat .readStatus 0 []) (wipWait cat t) .ok]

/-- The changes of ESTATE in WCMD, one after each call answered OK (R136). -/
def wcmdTransitions : List (EState × EState) :=
  [(.idle, .welPending), (.welPending, .cmdIssued), (.cmdIssued, .busyPolling), (.busyPolling, .idle)]

/-- The event with another answer. -/
def withAnswer (e : Event) (a : Answer) : Event :=
  match e with
  | .send c _ => .send c a
  | .poll c p _ => .poll c p a
  | .map c _ => .map c a
  | .abort _ => .abort a
  | .memRd o b => .memRd o b
  | .ramRd o b => .ramRd o b

/-- The events of INIT (R220). -/
def initTrace (cat : Catalog) (mode : Mode) : List Event :=
  toggleTrace cat .indirect mode
    ++ (if cat.resetEnable.present then [.send (encodeCmd cat .resetEnable 0 []) .ok] else [])
    ++ [.send (encodeCmd cat .reset 0 []) .ok,
        .poll (encodeCmd cat .readStatus 0 []) (wipWait cat cat.tInit) .ok]
    ++ (if sendsEnter4Byte cat then [.send (encodeCmd cat .enter4Byte 0 []) .ok] else [])
    ++ (if cat.xipAfterInit then [.map (encodeCmd cat .quadRead 0 []) .ok] else [])

/-- The chunks after the first (R152): `page_size` bytes, or what remains. -/
def laterChunks (p : Nat) : Nat → Nat → Nat → List (Nat × Nat)
  | 0, _, _ => []
  | fuel + 1, c, remain =>
    if remain = 0 then [] else (c, min p remain) :: laterChunks p fuel (c + min p remain) (remain - min p remain)

/-- The chunks of a PROGRAM as (offset, size), in order (R152). -/
def chunkList (p start length : Nat) : List (Nat × Nat) :=
  let n := min (p - start % p) length
  if length = 0 then [] else (start, n) :: laterChunks p length (start + n) (length - n)

/-- The payload byte `i` of a PROGRAM, as the host's buffer holds it (R151). -/
def bufferByte (ram : List Host.Cell) (buf : Word) (i : Nat) : Byte := ramByte ram (buf + BitVec.ofNat 32 i)

/-- The bytes `[from, from + n)` of the host's buffer. -/
def bufferBytes (ram : List Host.Cell) (buf : Word) (first n : Nat) : List Byte :=
  (List.range n).map (fun j => bufferByte ram buf (first + j))

/-- The RAM reads of a chunk (R150). -/
def bufferReads (ram : List Host.Cell) (buf : Word) (first n : Nat) : List Event :=
  (List.range n).map (fun j => .ramRd (buf + BitVec.ofNat 32 (first + j)) (bufferByte ram buf (first + j)))

/-- The events of PROGRAM's chunks (R150). -/
def programTrace (cat : Catalog) (ram : List Host.Cell) (buf : Word) (start : Nat) (chunks : List (Nat × Nat)) :
    List Event :=
  chunks.flatMap fun c =>
    bufferReads ram buf (c.1 - start) c.2
      ++ wcmdTrace cat .pageProgram c.1 (bufferBytes ram buf (c.1 - start) c.2) cat.tProgram

/-- The sectors of an ERASE_RANGE, in order (R167 (a)). -/
def sectorList (s start length : Nat) : List Nat :=
  (List.range ((start + length) / s + 1 - start / s)).map (fun k => (start / s + k) * s)

/-- The events of ERASE_RANGE's sectors (R165). -/
def eraseTrace (cat : Catalog) (sectors : List Nat) : List Event :=
  sectors.flatMap fun e => wcmdTrace cat .sectorErase e [] cat.tSectorErase

/-! ## Flash bytes -/

/-- `S(x, x + n)` of R199: the sum of `n` flash bytes from offset `x`, modulo 2^32. -/
def flashSum (f : Nat → Byte) (x : Nat) : Nat → Word
  | 0 => 0
  | n + 1 => zext32 (f x) + flashSum f (x + 1) n

/-- The checksum R199 gives in closed form, for `length ≥ 1`. -/
def checksumValue (f : Nat → Byte) (start length : Nat) (seed : Word) : Word :=
  let e := start + length
  let wordEnd := floorTo 4 start + 4
  if start % 4 ≠ 0 ∧ e % 4 ≠ 0 ∧ ceil4 e = wordEnd then seed + flashSum f start (wordEnd - start)
  else seed + flashSum f start length

/-- The 4-byte window reads of ChecksumCore, with the window's bytes as lanes (R197, R199). -/
def wordReads (f : Nat → Byte) (start length : Nat) : List Event :=
  (List.range ((ceil4 (start + length) - floorTo 4 start) / 4)).map fun k =>
    .memRd (floorTo 4 start + 4 * k) ((List.range 4).map (fun i => f (floorTo 4 start + 4 * k + i)))

/-- The pairs of reads VERIFY makes for the first `n` bytes (R205). -/
def compareReads (f : Nat → Byte) (ram : List Host.Cell) (start : Nat) (buf : Word) (n : Nat) : List Event :=
  (List.range n).flatMap fun i =>
    [.memRd (start + i) [f (start + i)], .ramRd (buf + BitVec.ofNat 32 i) (bufferByte ram buf i)]

/-! ## Runs and invariants -/

/-- Run lines one after the other, stopping at the first that has no next state. -/
def runLines : List Instr → State → Host.Outcome State Fault Refusal
  | [], s => .next s
  | i :: is, s =>
    match exec i s with
    | .next t => runLines is t
    | .fault f => .fault f
    | .refused r => .refused r

/-- RAM addresses are `u32` (R36). -/
def ramInRange (m : List Host.Cell) : Bool := m.all (fun c => decide (c.1 < 2 ^ 32))

/-- No command is in execution whose result a write-in-progress wait could still show. -/
def Device.quiet (d : Device) : Bool := d.inflight.all (fun op => !op.known)

/-- Between two steps: a well-formed configuration, memories in canonical form, no request in progress, and no command
in execution while the window is mapped (R10, R23, R24, R36, R265). -/
def State.Inv (s : State) : Prop :=
  s.cfg.wf = true ∧ memWf s.dev.flash = true ∧ memWf s.host.ram = true ∧ ramInRange s.host.ram = true
    ∧ s.estate = .idle ∧ s.curOp = 0 ∧ (s.mode = .mapped → s.dev.quiet = true)

/-- What may start a request other than INIT: a well-formed configuration, after INIT, a range R63 admits. -/
def State.Ready (s : State) (start length : Word) : Prop :=
  s.cfg.wf = true ∧ s.initDone = true ∧ start.toNat + length.toNat ≤ 2 ^ 32 - 1

/-- Every byte a command may change, among these events, is elsewhere than `a` (R34). -/
def untouched (cfg : Cfg) (es : List Event) (a : Nat) : Prop :=
  ∀ cmd answer runs, .send cmd answer ∈ es → commandSpan cfg cmd = some runs → inRuns runs a = false

/-- No program or erase command is among these events. -/
def sendsNoChange (es : List Event) : Prop := ∀ cmd answer, .send cmd answer ∈ es → changesFlash cmd.kind = false

end Sys2Proof.Machine
end

