-- ==== Sys2Proof/Certificates/Slice0/Obligations.lean ====
section
/-! DEFINITION. The statements about the machine, each citing the rules of spec/ it formalises. -/

open Sys2Proof Sys2Proof.Machine

/-! ## Encoding -/

/-- Decoding the record of a well-formed instruction gives the instruction back, for all 19 rows, under every
well-formed catalog whose nine opcode bytes differ (R76, R82, R84, R85). -/
def Obligations.DecodeOfEncodeIsTheInstruction : Prop :=
  ∀ (cfg : Cfg) (i : Instr), cfg.wf = true → cfg.cat.distinctOpcodes = true → i.wf cfg.cat = true →
    decode cfg.cat (encode cfg.cat i) = .ok i

/-- Words written out from R76, R77, R82, R84 and R85 decode to the instructions they stand for; the POLL record is its
kind, the READ_STATUS command and the POLLSPEC, as R85 gives its operands, and the SEND record carries its BUSCMD. -/
def Obligations.KnownWordsDecode : Prop :=
  decode refcat ⟨.hostReq, [0x00000002, 0x000000FE, 0x00000004, 0, 0x20000100], []⟩
      = .ok (.program 0x000000FE 0x00000004 0x20000100) ∧
  decode refcat ⟨.hostReq, [0x00000005, 0x000000FD, 0x00000006, 0x00000055, 0], []⟩
      = .ok (.checksum 0x000000FD 0x00000006 0x00000055) ∧
  decode refcat ⟨.busCmd, [0x04802502, 0x000000FE, 0, 2], [0x11, 0x22]⟩ = .ok (.pageProgram 0x000000FE [0x11, 0x22]) ∧
  decode refcat ⟨.busCmd, [0x00002520, 0x00001000, 0, 0], []⟩ = .ok (.sectorErase 0x00001000) ∧
  decode refcat ⟨.xcall, [1, 0x02800105, 0, 0, 1, 0x00000202, 16, 256], []⟩ = .ok (.poll ⟨0x02, 0x02, 16, 256⟩) ∧
  decode refcat ⟨.xcall, [0, 0x00002520, 0x00001000, 0, 0], []⟩ = .ok .send ∧
  recordCmd refcat ⟨.xcall, [0, 0x00002520, 0x00001000, 0, 0], []⟩ = some (encodeCmd refcat .sectorErase 0x00001000 []) ∧
  decode refcat ⟨.hostReq, [0x00000012], []⟩ = .error .illegalRequest

/-- R78 and R226: a HOSTREQ is illegal exactly when its OP is 0x0 or 0x7 to 0xF or its RSVD is not 0; the block
answers it ILLEGAL_REQUEST, makes no call and no read, and changes no register but the response's, whatever
INIT_DONE is. -/
def Obligations.IllegalRequestsAreAnswered : Prop :=
  (∀ r : HostReq, decodeReq r = none ↔
    (r.w0.toNat % 16 = 0 ∨ 7 ≤ r.w0.toNat % 16 ∨ r.w0.toNat / 16 ≠ 0)) ∧
  ∀ (s : State) (r : HostReq) (buffer : List (Word × Byte)) (moves : List HostMove),
    s.cfg.wf = true → s.seq.pos = none → s.host.moves = .request r buffer :: moves → decodeReq r = none →
    ∃ t, step s = .next t ∧
      t.rsp = { status := .illegalRequest, errAddr := 0, checksum := 0, mmValid := false, mmAddr := 0 } ∧
      t = { s with rsp := t.rsp, host := t.host } ∧ t.host.moves = moves

/-- R79: each operation reads only its own HOSTREQ words; two requests that agree on those are the same instruction. -/
def Obligations.UnusedRequestWordsAreIgnored : Prop :=
  ∀ r q : HostReq, r.w0 = q.w0 →
    (q.w0 = 1 ∨ q.w0 = 4 →
      decodeReq r = decodeReq q) ∧
    (q.w0 = 2 → r.start = q.start → r.length = q.length → r.buf = q.buf → decodeReq r = decodeReq q) ∧
    (q.w0 = 3 → r.start = q.start → r.length = q.length → decodeReq r = decodeReq q) ∧
    (q.w0 = 5 → r.start = q.start → r.length = q.length → r.seed = q.seed → decodeReq r = decodeReq q) ∧
    (q.w0 = 6 → r.start = q.start → r.length = q.length → r.seed = q.seed → r.buf = q.buf →
      decodeReq r = decodeReq q)

/-- R88: no encoded descriptor has IMODE 0, DDIR 3, a bit in [31:28], or ADSIZE or ABSIZE nonzero with its mode 0,
under any well-formed configuration. -/
def Obligations.EncoderNeverProducesReserved : Prop :=
  ∀ (cfg : Cfg) (k : Kind) (a : Nat) (payload : List Byte), cfg.wf = true →
    let c := encodeCmd cfg.cat k a payload
    imodeField c.w0 ≠ 0 ∧ ddirField c.w0 ≠ 3 ∧ zeroField c.w0 = 0 ∧
      (admodeField c.w0 = 0 → adsizeField c.w0 = 0 ∧ c.w1 = 0) ∧
      (abmodeField c.w0 = 0 → absizeField c.w0 = 0 ∧ c.w2 = 0)

/-- R103: for a kind with an address phase, ADDRESS is the offset modulo 2^(8·address_bytes) and ADSIZE is
`address_bytes - 1`; with three bytes an offset at or above 2^24 loses its upper bits. -/
def Obligations.AddressAssemblyTruncates : Prop :=
  ∀ (cfg : Cfg) (k : Kind) (a : Nat) (payload : List Byte), cfg.wf = true → hasAddr k = true →
    let c := encodeCmd cfg.cat k a payload
    c.w1.toNat = a % 2 ^ (8 * cfg.cat.addressBytes) ∧
      (adsizeField c.w0).toNat = cfg.cat.addressBytes - 1 ∧
      (cfg.cat.addressBytes = 3 → c.w1.toNat < 2 ^ 24)

/-- R89: the payload of an encoded command is NBYTES long when DDIR = 2 and absent otherwise, so words 0 and 3 tell
the record's length. -/
def Obligations.RecordLengthFromWords : Prop :=
  ∀ (cfg : Cfg) (k : Kind) (a : Nat) (payload : List Byte), cfg.wf = true → payload.length < 2 ^ 32 →
    let c := encodeCmd cfg.cat k a payload
    c.payload.length = if ddirField c.w0 = 2 then c.w3.toNat else 0

/-- R80 and R81: the four response words: STATUS in word 0 [3:0] with codes 0 to 4, MM_VALID in bit 8, the other
bits of word 0 zero, then ERR_ADDR, CHECKSUM, MM_ADDR. After a request every field that is not valid for its response
is 0: ERR_ADDR without BUS_ERROR or TIMED_OUT, CHECKSUM but for an OK CHECKSUM or VERIFY, MM_VALID but for an OK
VERIFY, MM_ADDR without MM_VALID. -/
def Obligations.ResponseWordsLayout : Prop :=
  (∀ r : Response, ∃ w0, responseWords r = [w0, r.errAddr, r.checksum, r.mmAddr] ∧
    w0.toNat % 16 =
      (match r.status with | .ok => 0 | .busError => 1 | .timedOut => 2 | .initError => 3 | .illegalRequest => 4) ∧
    (w0.toNat / 16) % 16 = 0 ∧ w0.toNat / 512 = 0 ∧ w0.getLsbD 8 = r.mmValid) ∧
  ∀ (i : Instr) (s t : State), isRequest i = true → exec i s = .next t →
    (t.rsp.status ≠ .busError → t.rsp.status ≠ .timedOut → t.rsp.errAddr = 0) ∧
    (t.rsp.status ≠ .ok → t.rsp.checksum = 0 ∧ t.rsp.mmValid = false) ∧
    ((∀ start length seed, i ≠ .checksum start length seed) →
      (∀ start length seed buf, i ≠ .verify start length seed buf) → t.rsp.checksum = 0) ∧
    ((∀ start length seed buf, i ≠ .verify start length seed buf) → t.rsp.mmValid = false) ∧
    (t.rsp.mmValid = false → t.rsp.mmAddr = 0)

/-! ## Bus commands -/

/-- R105, R106, R107, R111, R113 (with R82 and R101): an instruction-only command completes; it writes nothing but
`cmd`, whose descriptor has the catalog's opcode, lines and DTR flag and no other phase. -/
def Obligations.InstructionOnlyCommandsEncode : Prop :=
  ∀ (s : State), s.cfg.wf = true →
    ∀ p ∈ [(Instr.resetEnable, Kind.resetEnable), (.reset, .reset), (.writeEnable, .writeEnable),
        (.chipErase, .chipErase), (.enter4Byte, .enter4Byte)],
    ∃ c, exec p.1 s = .next { s with seq := { s.seq with cmd := c } } ∧ c.kind = p.2 ∧
      opcodeField c.w0 = (s.cfg.cat.entry p.2).opcode ∧ imodeField c.w0 = lineCode (s.cfg.cat.entry p.2).ilines ∧
      admodeField c.w0 = 0 ∧ adsizeField c.w0 = 0 ∧ abmodeField c.w0 = 0 ∧ absizeField c.w0 = 0 ∧
      dcycField c.w0 = 0 ∧ dmodeField c.w0 = 0 ∧ ddirField c.w0 = 0 ∧
      dtrField c.w0 = BitVec.ofBool (s.cfg.cat.entry p.2).dtr ∧ zeroField c.w0 = 0 ∧
      c.w1 = 0 ∧ c.w2 = 0 ∧ c.w3 = 0 ∧ c.payload = []

/-- R108 and R112: READ_STATUS has dummy cycles and a 1-byte read and no address; QUAD_READ has address 0, the
catalog's alternate bytes where `alt_size ≥ 1`, dummy cycles and a continuous read. Each completes and writes nothing
but `cmd`. -/
def Obligations.ReadCommandsEncode : Prop :=
  ∀ (s : State), s.cfg.wf = true →
    (∃ c, exec .readStatus s = .next { s with seq := { s.seq with cmd := c } } ∧ c.kind = .readStatus ∧
      opcodeField c.w0 = s.cfg.cat.readStatus.opcode ∧ imodeField c.w0 = lineCode s.cfg.cat.readStatus.ilines ∧
      admodeField c.w0 = 0 ∧ adsizeField c.w0 = 0 ∧ abmodeField c.w0 = 0 ∧ absizeField c.w0 = 0 ∧
      (dcycField c.w0).toNat = s.cfg.cat.readStatus.dummyCycles ∧
      dmodeField c.w0 = lineCode s.cfg.cat.readStatus.dlines ∧ ddirField c.w0 = 1 ∧
      dtrField c.w0 = BitVec.ofBool s.cfg.cat.readStatus.dtr ∧
      c.w1 = 0 ∧ c.w2 = 0 ∧ c.w3 = 1 ∧ c.payload = []) ∧
    (∃ c, exec .quadRead s = .next { s with seq := { s.seq with cmd := c } } ∧ c.kind = .quadRead ∧
      opcodeField c.w0 = s.cfg.cat.quadRead.opcode ∧ imodeField c.w0 = lineCode s.cfg.cat.quadRead.ilines ∧
      admodeField c.w0 = lineCode s.cfg.cat.quadRead.alines ∧
      (adsizeField c.w0).toNat = s.cfg.cat.addressBytes - 1 ∧
      (s.cfg.cat.quadRead.altSize = 0 → abmodeField c.w0 = 0 ∧ absizeField c.w0 = 0 ∧ c.w2 = 0) ∧
      (1 ≤ s.cfg.cat.quadRead.altSize →
        abmodeField c.w0 = lineCode s.cfg.cat.quadRead.altLines ∧
        (absizeField c.w0).toNat = s.cfg.cat.quadRead.altSize - 1 ∧
        c.w2.toNat = s.cfg.cat.quadRead.altValue.toNat % 2 ^ (8 * s.cfg.cat.quadRead.altSize)) ∧
      (dcycField c.w0).toNat = s.cfg.cat.quadRead.dummyCycles ∧
      dmodeField c.w0 = lineCode s.cfg.cat.quadRead.dlines ∧ ddirField c.w0 = 1 ∧
      dtrField c.w0 = BitVec.ofBool s.cfg.cat.quadRead.dtr ∧
      c.w1 = 0 ∧ c.w3 = 0 ∧ c.payload = [])

/-- R109, R110 (with R87, R103): PAGE_PROGRAM carries its truncated offset, NBYTES and its payload; SECTOR_ERASE its
truncated offset and no data. Each completes, on any offset and payload, and writes nothing but `cmd`. -/
def Obligations.AddressedCommandsEncode : Prop :=
  ∀ (s : State) (offset : Word) (payload : List Byte), s.cfg.wf = true →
    (∃ c, exec (.pageProgram offset payload) s = .next { s with seq := { s.seq with cmd := c } } ∧
      c.kind = .pageProgram ∧ opcodeField c.w0 = s.cfg.cat.pageProgram.opcode ∧
      imodeField c.w0 = lineCode s.cfg.cat.pageProgram.ilines ∧
      admodeField c.w0 = lineCode s.cfg.cat.pageProgram.alines ∧
      (adsizeField c.w0).toNat = s.cfg.cat.addressBytes - 1 ∧ abmodeField c.w0 = 0 ∧ absizeField c.w0 = 0 ∧
      dcycField c.w0 = 0 ∧ dmodeField c.w0 = lineCode s.cfg.cat.pageProgram.dlines ∧ ddirField c.w0 = 2 ∧
      dtrField c.w0 = BitVec.ofBool s.cfg.cat.pageProgram.dtr ∧
      c.w1.toNat = offset.toNat % 2 ^ (8 * s.cfg.cat.addressBytes) ∧ c.w2 = 0 ∧
      c.w3 = BitVec.ofNat 32 payload.length ∧ c.payload = payload) ∧
    (∃ c, exec (.sectorErase offset) s = .next { s with seq := { s.seq with cmd := c } } ∧
      c.kind = .sectorErase ∧ opcodeField c.w0 = s.cfg.cat.sectorErase.opcode ∧
      imodeField c.w0 = lineCode s.cfg.cat.sectorErase.ilines ∧
      admodeField c.w0 = lineCode s.cfg.cat.sectorErase.alines ∧
      (adsizeField c.w0).toNat = s.cfg.cat.addressBytes - 1 ∧ abmodeField c.w0 = 0 ∧ absizeField c.w0 = 0 ∧
      dcycField c.w0 = 0 ∧ dmodeField c.w0 = 0 ∧ ddirField c.w0 = 0 ∧
      dtrField c.w0 = BitVec.ofBool s.cfg.cat.sectorErase.dtr ∧
      c.w1.toNat = offset.toNat % 2 ^ (8 * s.cfg.cat.addressBytes) ∧ c.w2 = 0 ∧ c.w3 = 0 ∧ c.payload = [])

/-! ## Transport calls -/

/-- R114, R13: in indirect mode SEND of a command without a read data phase completes: the event is appended with the
answer the environment gives, OK or BUS_ERROR, and no register of the block but `r` changes. R34: a command that is no
program or erase changes no flash byte; one that is changes none outside the bytes it may change, where no earlier
command is unfinished. Which bytes those are is `commandSpan` (R109 to R111, R263; out of geometry log 6); that bytes
of unfinished commands may change is log 8. That SEND of a command no rule sends completes in the same way (ENTER_4BYTE
with three address bytes or not present, RESET_ENABLE not present) is log 31. -/
def Obligations.SendCompletes : Prop :=
  ∀ (s : State), s.cfg.wf = true → s.mode = .indirect → ddirField s.seq.cmd.w0 ≠ 1 →
    ∃ t r, exec .send s = .next t ∧ (r = .ok ∨ r = .busError) ∧
      (∀ d ds, s.dev.script = d :: ds → (r = .ok ↔ d.busErrorAfter = none)) ∧
      t = { s with seq := { s.seq with ret := r }, dev := t.dev, trace := s.trace ++ [.send s.seq.cmd r] } ∧
      t.dev.script = s.dev.script.tail ∧
      (changesFlash s.seq.cmd.kind = false → ∀ a, flashByte t.dev a = flashByte s.dev a) ∧
      ∀ a, unsettled s.dev a = false → untouched s.cfg [.send s.seq.cmd r] a →
        flashByte t.dev a = flashByte s.dev a

/-- SEND and POLL while MODE = MAPPED, and SEND of a command with a read data phase (READ_STATUS, QUAD_READ), are
refused. R21, R114 and R267 say that the block never issues these calls; that the model refuses them is its reading
(log 17). -/
def Obligations.ForbiddenCallsAreRefused : Prop :=
  ∀ (s : State) (spec : PollSpec), s.cfg.wf = true →
    (s.mode = .mapped → exec .send s = .refused .modeDiscipline ∧ exec (.poll spec) s = .refused .modeDiscipline) ∧
    (s.mode = .indirect → ddirField s.seq.cmd.w0 = 1 → exec .send s = .refused .readCommandSent) ∧
    (∀ k, (k = .readStatus ∨ k = .quadRead) → ∀ a payload,
      s.mode = .indirect → s.seq.cmd = encodeCmd s.cfg.cat k a payload → exec .send s = .refused .readCommandSent)

/-- R131: in indirect mode POLL completes with one of exactly three answers: OK, when sample `k < N` hits and no
earlier one did; TIMED_OUT, when all `N` samples miss; BUS_ERROR, before a sample `k < N` with no hit before it. The
samples and the BUS_ERROR are the environment's draw. `N = floor(timeout / max(interval, 1)) + 1` is R131's default of
a parameter, which the model takes (log 16), and no BUS_ERROR after the last sample is its reading (log 26). P_MASK to
P_TIMEOUT hold the spec, P_COUNT the samples taken, and one POLL event is appended. -/
def Obligations.PollAnswersExactly : Prop :=
  ∀ (s : State) (spec : PollSpec), s.cfg.wf = true → s.mode = .indirect →
    ∃ t r, exec (.poll spec) s = .next t ∧ t.seq.ret = r ∧
      t.trace = s.trace ++ [.poll (encodeCmd s.cfg.cat .readStatus 0 []) spec r] ∧
      t.pol.mask = spec.mask ∧ t.pol.value = spec.value ∧ t.pol.interval = spec.interval ∧
      t.pol.timeout = spec.timeout ∧
      (let n := spec.timeout.toNat / max spec.interval.toNat 1 + 1
       let draw := nextDraw s.dev
       let sample := fun k => statusSample draw s.dev.tick k
       let hits := fun k => (sample k &&& spec.mask) = spec.value
       t.pol.count ≤ n ∧ (∀ k, k + 1 < t.pol.count → ¬ hits k) ∧
       (∀ k, t.pol.count = k + 1 → t.pol.sample = sample k ∧ (t.pol.hit = true ↔ hits k)) ∧
       ((r = .ok ∧ 1 ≤ t.pol.count ∧ hits (t.pol.count - 1) ∧
            ∀ k, k < t.pol.count → draw.busErrorAfter ≠ some k) ∨
        (r = .timedOut ∧ t.pol.count = n ∧ (∀ k, k < n → ¬ hits k) ∧ ∀ k, k < n → draw.busErrorAfter ≠ some k) ∨
        (r = .busError ∧ t.pol.count < n ∧ (∀ k, k < t.pol.count → ¬ hits k) ∧
          draw.busErrorAfter = some t.pol.count)))

/-- The frame of POLL (R29, R59, R115): besides the comparator's registers and the sequencer's locals only the
environment and the trace move; no stored byte is written, and no flash byte changes that no unfinished command covers,
nor any where no command is in execution (what a WIP wait shows of one that is, is log 5). -/
def Obligations.PollFrame : Prop :=
  ∀ (s t : State) (spec : PollSpec), exec (.poll spec) s = .next t →
    t = { s with seq := t.seq, pol := t.pol, dev := t.dev, trace := t.trace } ∧ t.seq.pos = s.seq.pos ∧
      t.dev.ctrlMode = s.dev.ctrlMode ∧ t.dev.script = s.dev.script.tail ∧ t.dev.flash = s.dev.flash ∧
      t.dev.epoch = s.dev.epoch ∧
      ∀ a, unsettled s.dev a = false ∨ s.dev.quiet = true → flashByte t.dev a = flashByte s.dev a

/-- R133: (a) mask 0 and match 0 hit on the first sample; (b) a match bit outside the mask is never hit, and the waits
of a well-formed catalog never ask for one, a catalog with WEL_BIT or WIP_BIT 0 being refused; (c) a timeout below
the interval gives one sample; (d) interval 0 counts as 1. -/
def Obligations.ComparatorCornerCases : Prop :=
  (∀ d tick (p : Poller) interval timeout,
    let r := runPoll d tick ⟨0, 0, interval, timeout⟩ p
    (r.1 = .ok ∧ r.2.count = 1) ∨ (r.1 = .busError ∧ r.2.count = 0)) ∧
  (∀ d tick (p : Poller) (spec : PollSpec), spec.value &&& ~~~ spec.mask ≠ 0 →
    let r := runPoll d tick spec p
    (r.1 = .timedOut ∧ r.2.count = pollBudget spec.interval spec.timeout) ∨ r.1 = .busError) ∧
  (∀ cfg : Cfg, cfg.wf = true → cfg.cat.welBit ≠ 0 ∧ cfg.cat.wipBit ≠ 0 ∧
    (welWait cfg.cat).value &&& ~~~ (welWait cfg.cat).mask = 0 ∧
    ∀ t, (wipWait cfg.cat t).value &&& ~~~ (wipWait cfg.cat t).mask = 0) ∧
  (∀ i t : Word, t < i ∨ (i = 0 ∧ t = 0) → pollBudget i t = 1) ∧
  (∀ t : Word, pollBudget 0 t = pollBudget 1 t)

/-- R116, R182, R38: MAP completes (in MAPPED too: log 30); it appends MAP with QUAD_READ; answered OK, MODE and the controller become mapped;
answered BUS_ERROR, MODE keeps its value. Nothing else of the block changes but the
sequencer's locals, and no flash byte changes; a command in execution has an unknown result after it (log 8). -/
def Obligations.MapCompletes : Prop :=
  ∀ (s : State), s.cfg.wf = true →
    ∃ t r, exec .map s = .next t ∧ (r = .ok ∨ r = .busError) ∧
      (∀ d ds, s.dev.script = d :: ds → (r = .ok ↔ d.busErrorAfter = none)) ∧
      (r = .ok → t.mode = .mapped ∧ t.dev.ctrlMode = .mapped) ∧ (r = .busError → t.mode = s.mode) ∧
      t = { s with
        mode := t.mode
        seq := { s.seq with cmd := encodeCmd s.cfg.cat .quadRead 0 [], ret := r }
        dev := { disturb s.dev with ctrlMode := t.dev.ctrlMode, script := s.dev.script.tail, tick := t.dev.tick }
        trace := s.trace ++ [.map (encodeCmd s.cfg.cat .quadRead 0 []) r] } ∧
      ∀ a, flashByte t.dev a = flashByte s.dev a

/-- R117, R181, R38: ABORT completes (in INDIRECT too: log 30); answered OK, MODE and the controller become indirect; answered BUS_ERROR, MODE
keeps its value. Nothing else of the block changes but `r`. -/
def Obligations.AbortCompletes : Prop :=
  ∀ (s : State), s.cfg.wf = true →
    ∃ t r, exec .abort s = .next t ∧ (r = .ok ∨ r = .busError) ∧
      (∀ d ds, s.dev.script = d :: ds → (r = .ok ↔ d.busErrorAfter = none)) ∧
      (r = .ok → t.mode = .indirect ∧ t.dev.ctrlMode = .indirect) ∧ (r = .busError → t.mode = s.mode) ∧
      t = { s with
        mode := t.mode
        seq := { s.seq with ret := r }
        dev := { s.dev with ctrlMode := t.dev.ctrlMode, script := s.dev.script.tail, tick := t.dev.tick }
        trace := s.trace ++ [.abort r] }

/-! ## The elementary command -/

/-- R92, R135, R136: from IDLE, WCMD makes its four calls in order and stops at the first that is not answered OK.
All answered OK, ESTATE has gone IDLE, WEL_PENDING, CMD_ISSUED, BUSY_POLLING, IDLE; stopped at call `n`, it goes from
the state it had reached to FAILED and back to IDLE, and the response reports that answer with the error address. -/
def Obligations.ElementaryCommandCalls : Prop :=
  ∀ (k : Kind) (a : Nat) (payload : List Byte) (tmo ea : Word) (s : State), s.estate = .idle →
    let full := wcmdTrace s.cfg.cat k a payload tmo
    (∃ u, wcmd k a payload tmo ea s = .going u ∧ u.trace = s.trace ++ full ∧ u.estate = .idle ∧
        u.esLog = s.esLog ++ wcmdTransitions ∧ u.rsp = s.rsp) ∨
    (∃ u n e r, wcmd k a payload tmo ea s = .ended u ∧ full[n]? = some e ∧ r ≠ .ok ∧
        (r = .timedOut → n = 1 ∨ n = 3) ∧
        u.trace = s.trace ++ full.take n ++ [withAnswer e r] ∧ u.estate = .idle ∧ u.curOp = 0 ∧
        u.esLog = s.esLog ++ wcmdTransitions.take n ++
          [((wcmdTransitions.map Prod.fst).getD n .idle, .failed), (.failed, .idle)] ∧
        u.rsp = { status := statusOf r, errAddr := ea, checksum := 0, mmValid := false, mmAddr := 0 })

/-- R92: WCMD is its lines. In indirect mode, when the environment answers the four calls OK, running WRITE_ENABLE,
SEND, POLL, the command, SEND, POLL one after the other leaves what WCMD leaves, but for ESTATE, which only WCMD
writes. -/
def Obligations.ElementaryCommandIsItsLines : Prop :=
  ∀ (k : Kind) (a : Word) (payload : List Byte) (tmo ea : Word) (s : State),
    changesFlash k = true → s.cfg.wf = true → s.mode = .indirect →
    obliges (wcmdCalls s.cfg.cat tmo) s.dev.script = true →
    ∃ u, wcmd k a.toNat payload tmo ea s = .going u ∧
      runLines (wcmdLines s.cfg.cat k a payload tmo) s = .next { u with estate := s.estate, esLog := s.esLog }

/-! ## INIT -/

/-- R220: when every call is answered OK, INIT completes with INIT_DONE = 1, an OK response and MODE = MAPPED exactly
when `xip_after_init`; its calls are the optional ABORT, RESET_ENABLE, RESET, the WIP wait with `t_init`, ENTER_4BYTE
and MAP that the mode and the catalog ask for, in that order. INIT_DONE need not be set before. -/
def Obligations.InitCompletes : Prop :=
  ∀ (s : State), s.cfg.wf = true → obliges (initCalls s.cfg.cat s.mode) s.dev.script = true →
    ∃ t, exec .init s = .next t ∧ t.initDone = true ∧
      t.rsp = { status := .ok, errAddr := 0, checksum := 0, mmValid := false, mmAddr := 0 } ∧
      t.mode = (if s.cfg.cat.xipAfterInit then .mapped else .indirect) ∧
      t.trace = s.trace ++ initTrace s.cfg.cat s.mode ∧ t.estate = .idle ∧ t.curOp = 0

/-- R220, R22: whatever the environment answers, INIT ends with INIT_DONE = 1 and OK, or with INIT_DONE = 0,
INIT_ERROR and error address 0. It sends no program or erase command, and no flash byte changes. After a failure MODE is INDIRECT, or unchanged when the ABORT failed. -/
def Obligations.InitOutcomes : Prop :=
  ∀ (s : State), s.cfg.wf = true →
    ∃ t new, exec .init s = .next t ∧ t.trace = s.trace ++ new ∧
      ((t.initDone = true ∧ t.rsp.status = .ok) ∨
        (t.initDone = false ∧
          t.rsp = { status := .initError, errAddr := 0, checksum := 0, mmValid := false, mmAddr := 0 } ∧
          (t.mode = .indirect ∨ (t.mode = s.mode ∧ new = [.abort .busError])))) ∧
      sendsNoChange new ∧ ∀ a, flashByte t.dev a = flashByte s.dev a

/-! ## PROGRAM -/

/-- R152, R153: the chunks are at most a page and cross no page boundary, their sizes sum to `length`, each starts
where the one before ended, the first starts at `start`, and there are `ceil((start mod P + length) / P)` of them. -/
def Obligations.ChunksPartitionTheRange : Prop :=
  ∀ p start length : Nat, 1 ≤ p →
    let cs := chunkList p start length
    (∀ c ∈ cs, 1 ≤ c.2 ∧ c.2 ≤ p ∧ c.1 / p = (c.1 + c.2 - 1) / p) ∧
    (cs.map Prod.snd).sum = length ∧
    cs.IsChain (fun c d => d.1 = c.1 + c.2) ∧
    (∀ c, cs.head? = some c → c.1 = start) ∧
    (1 ≤ length → cs.length = (start % p + length + p - 1) / p)

/-- R150: a PROGRAM of `length ≥ 1` whose calls are all answered OK completes with an OK response: the mode toggle if
it is needed, then for each chunk of R152 its payload reads and its elementary command, each payload byte being host
RAM byte `buf + (offset - start)`. The splitter's registers end at the end of the range. -/
def Obligations.ProgramIssuesItsChunks : Prop :=
  ∀ (s : State) (start length buf : Word), s.Ready start length → length ≠ 0 →
    let chunks := chunkList s.cfg.geom.pageSize.toNat start.toNat length.toNat
    obliges (toggleCalls .indirect s.mode
      ++ (List.replicate chunks.length (wcmdCalls s.cfg.cat s.cfg.cat.tProgram)).flatten) s.dev.script = true →
    ∃ t, exec (.program start length buf) s = .next t ∧
      t.rsp = { status := .ok, errAddr := 0, checksum := 0, mmValid := false, mmAddr := 0 } ∧
      t.trace = s.trace ++ toggleTrace s.cfg.cat .indirect s.mode
        ++ programTrace s.cfg.cat s.host.ram buf start.toNat chunks ∧
      t.mode = .indirect ∧ t.estate = .idle ∧ t.curOp = 0 ∧ t.initDone = true ∧
      t.spl.cursor = start + length ∧ t.spl.remain = 0

/-- R151, R67: the bytes. With the range inside the device and inside the address width, erased beforehand, and the device idle (R265), a PROGRAM whose calls are all answered OK leaves host RAM byte `buf + i` at offset `start + i`
for every `i < length`, and every other flash byte as it was. -/
def Obligations.ProgramWritesItsRange : Prop :=
  ∀ (s : State) (start length buf : Word), s.Ready start length → length ≠ 0 →
    let chunks := chunkList s.cfg.geom.pageSize.toNat start.toNat length.toNat
    obliges (toggleCalls .indirect s.mode
      ++ (List.replicate chunks.length (wcmdCalls s.cfg.cat s.cfg.cat.tProgram)).flatten) s.dev.script = true →
    s.dev.busy = .idle → start.toNat + length.toNat ≤ s.cfg.geom.totalSize.toNat →
    start.toNat + length.toNat ≤ 2 ^ (8 * s.cfg.cat.addressBytes) →
    (∀ i, i < length.toNat → flashByte s.dev (start.toNat + i) = s.cfg.geom.eraseValue) →
    ∃ t, exec (.program start length buf) s = .next t ∧ t.dev.inflight = [] ∧ t.dev.busy = .idle ∧
      (∀ i, i < length.toNat → flashByte t.dev (start.toNat + i) = bufferByte s.host.ram buf i) ∧
      (∀ a, a < start.toNat ∨ start.toNat + length.toNat ≤ a → flashByte t.dev a = flashByte s.dev a)

/-- R55: whatever the environment answers, every PAGE_PROGRAM a request sends covers `n` bytes from an offset `c`,
`1 ≤ n ≤ page_size`, inside one page; and it is a PROGRAM that sends it, for bytes of its range. -/
def Obligations.PageProgramsStayInOnePage : Prop :=
  ∀ (i : Instr) (s t : State), isRequest i = true → exec i s = .next t →
    ∃ new, t.trace = s.trace ++ new ∧ ∀ cmd r, .send cmd r ∈ new → cmd.kind = .pageProgram →
      ∃ c, cmd = encodeCmd s.cfg.cat .pageProgram c cmd.payload ∧
        1 ≤ cmd.payload.length ∧ cmd.payload.length ≤ s.cfg.geom.pageSize.toNat ∧
        floorTo s.cfg.geom.pageSize.toNat c = floorTo s.cfg.geom.pageSize.toNat (c + cmd.payload.length - 1) ∧
        ∃ start length buf, i = .program start length buf ∧ start.toNat ≤ c ∧
          c + cmd.payload.length ≤ start.toNat + length.toNat

/-! ## ERASE_RANGE and ERASE_ALL -/

/-- R165, R167 (a): an ERASE_RANGE whose calls are all answered OK completes with an OK response; it issues one
elementary command for each sector from `floor(start / S)` to `floor((start + length) / S)`, in order. -/
def Obligations.EraseRangeIssuesItsSectors : Prop :=
  ∀ (s : State) (start length : Word), s.Ready start length →
    let sectors := sectorList s.cfg.geom.sectorSize.toNat start.toNat length.toNat
    obliges (toggleCalls .indirect s.mode
      ++ (List.replicate sectors.length (wcmdCalls s.cfg.cat s.cfg.cat.tSectorErase)).flatten) s.dev.script = true →
    ∃ t, exec (.eraseRange start length) s = .next t ∧
      t.rsp = { status := .ok, errAddr := 0, checksum := 0, mmValid := false, mmAddr := 0 } ∧
      t.trace = s.trace ++ toggleTrace s.cfg.cat .indirect s.mode ++ eraseTrace s.cfg.cat sectors ∧
      t.mode = .indirect ∧ t.estate = .idle ∧ t.curOp = 0 ∧ t.initDone = true ∧
      t.ers.eend = start.toNat + length.toNat ∧ t.ers.eend < t.ers.ecursor

/-- R169, R167 (d): the bytes. With its sectors inside the device and the address width and the device idle (R265), an ERASE_RANGE whose calls are all answered OK leaves `erase_value` in every byte of those sectors, the requested
range among them, and every other flash byte as it was. -/
def Obligations.EraseRangeErasesItsSectors : Prop :=
  ∀ (s : State) (start length : Word), s.Ready start length →
    let size := s.cfg.geom.sectorSize.toNat
    let first := floorTo size start.toNat
    let past := floorTo size (start.toNat + length.toNat) + size
    obliges (toggleCalls .indirect s.mode
      ++ (List.replicate (sectorList size start.toNat length.toNat).length
        (wcmdCalls s.cfg.cat s.cfg.cat.tSectorErase)).flatten) s.dev.script = true →
    s.dev.busy = .idle → past ≤ s.cfg.geom.totalSize.toNat →
    start.toNat + length.toNat < 2 ^ (8 * s.cfg.cat.addressBytes) →
    first ≤ start.toNat ∧ start.toNat + length.toNat < past ∧
    ∃ t, exec (.eraseRange start length) s = .next t ∧ t.dev.inflight = [] ∧ t.dev.busy = .idle ∧
      (∀ a, first ≤ a → a < past → flashByte t.dev a = s.cfg.geom.eraseValue) ∧
      (∀ a, a < first ∨ past ≤ a → flashByte t.dev a = flashByte s.dev a)

/-- R56: whatever the environment answers, every SECTOR_ERASE a request sends is for an offset that is a multiple of
`sector_size`, and it is an ERASE_RANGE that sends it, for an offset from `floor_S(start)` to `start + length`; a
CHIP_ERASE carries no address, and it is ERASE_ALL that sends it. -/
def Obligations.SectorErasesAreAligned : Prop :=
  ∀ (i : Instr) (s t : State), isRequest i = true → exec i s = .next t →
    ∃ new, t.trace = s.trace ++ new ∧ ∀ cmd r, .send cmd r ∈ new →
      (cmd.kind = .sectorErase →
        ∃ e, cmd = encodeCmd s.cfg.cat .sectorErase e [] ∧ e % s.cfg.geom.sectorSize.toNat = 0 ∧
          ∃ start length, i = .eraseRange start length ∧
            floorTo s.cfg.geom.sectorSize.toNat start.toNat ≤ e ∧ e ≤ start.toNat + length.toNat) ∧
      (cmd.kind = .chipErase → i = .eraseAll ∧ admodeField cmd.w0 = 0 ∧ adsizeField cmd.w0 = 0 ∧ cmd.w1 = 0)

/-- R168, R169: an ERASE_ALL whose calls are all answered OK completes with an OK response, one elementary command
with CHIP_ERASE and the WIP wait of `t_chip_erase`; on an idle device (R265) every byte then holds
`erase_value`. -/
def Obligations.EraseAllErasesTheDevice : Prop :=
  ∀ (s : State), s.cfg.wf = true → s.initDone = true →
    obliges (toggleCalls .indirect s.mode ++ wcmdCalls s.cfg.cat s.cfg.cat.tChipErase) s.dev.script = true →
    ∃ t, exec .eraseAll s = .next t ∧
      t.rsp = { status := .ok, errAddr := 0, checksum := 0, mmValid := false, mmAddr := 0 } ∧
      t.trace = s.trace ++ toggleTrace s.cfg.cat .indirect s.mode
        ++ wcmdTrace s.cfg.cat .chipErase 0 [] s.cfg.cat.tChipErase ∧
      t.mode = .indirect ∧ t.estate = .idle ∧ t.curOp = 0 ∧ t.initDone = true ∧
      (s.dev.busy = .idle → t.dev.inflight = [] ∧ t.dev.busy = .idle ∧
        (∀ a, a < s.cfg.geom.totalSize.toNat → flashByte t.dev a = s.cfg.geom.eraseValue) ∧
        (∀ a, s.cfg.geom.totalSize.toNat ≤ a → flashByte t.dev a = flashByte s.dev a))

/-! ## CHECKSUM and VERIFY -/

/-- R199: for `length ≥ 1` the checksum is `seed + S(start, start + length)` modulo 2^32, except that a range inside
one word with both ends misaligned includes the bytes to the word's end; the window is read `TOTAL / 4` times, four
bytes at a time, and `S` sums the bytes the window shows. -/
def Obligations.ChecksumClosedForm : Prop :=
  ∀ (s : State) (start length seed : Word), s.Ready start length → length ≠ 0 →
    obliges (toggleCalls .mapped s.mode) s.dev.script = true →
    ∃ t, exec (.checksum start length seed) s = .next t ∧
      t.rsp = { status := .ok, errAddr := 0, mmValid := false, mmAddr := 0
                checksum := checksumValue (windowByte s.cfg s.dev) start.toNat length.toNat seed } ∧
      t.trace = s.trace ++ toggleTrace s.cfg.cat .mapped s.mode
        ++ wordReads (windowByte s.cfg s.dev) start.toNat length.toNat ∧
      t.mode = .mapped ∧ t.estate = .idle ∧ t.curOp = 0 ∧ t.initDone = true ∧ t.dev.flash = s.dev.flash

/-- R200: two CHECKSUMs of the same range and seed give the same value, whatever instructions run between them, as long
as none of them sends a program or erase command. The premise is the machine's invariant (StepKeepsTheInvariant). -/
def Obligations.ChecksumIsIdempotent : Prop :=
  ∀ (s t t' u : State) (between : List Instr) (start length seed : Word), s.Inv →
    exec (.checksum start length seed) s = .next t → t.rsp.status = .ok →
    runLines between t = .next t' →
    (∃ new, t'.trace = t.trace ++ new ∧ sendsNoChange new) →
    exec (.checksum start length seed) t' = .next u → u.rsp.status = .ok →
    u.rsp.checksum = t.rsp.checksum

/-- R205, R206, R207: VERIFY computes the checksum of the flash range first, then compares byte by byte in rising
offset order, flash before RAM. Equal over the whole range, there is no mismatch; else it stops at the smallest
differing offset `k`, reports it as a flash offset, and reads nothing after it. -/
def Obligations.VerifyDecides : Prop :=
  ∀ (s : State) (start length seed buf : Word), s.Ready start length → length ≠ 0 →
    obliges (toggleCalls .mapped s.mode) s.dev.script = true →
    ∃ t, exec (.verify start length seed buf) s = .next t ∧ t.rsp.status = .ok ∧ t.rsp.errAddr = 0 ∧
      t.rsp.checksum = checksumValue (windowByte s.cfg s.dev) start.toNat length.toNat seed ∧
      t.mode = .mapped ∧ t.estate = .idle ∧ t.curOp = 0 ∧ t.initDone = true ∧ t.dev.flash = s.dev.flash ∧
      (let differs := fun i => windowByte s.cfg s.dev (start.toNat + i) ≠ bufferByte s.host.ram buf i
       let before := s.trace ++ toggleTrace s.cfg.cat .mapped s.mode
         ++ wordReads (windowByte s.cfg s.dev) start.toNat length.toNat
       ((∀ i, i < length.toNat → ¬ differs i) → t.rsp.mmValid = false ∧ t.rsp.mmAddr = 0 ∧
          t.trace = before ++ compareReads (windowByte s.cfg s.dev) s.host.ram start.toNat buf length.toNat) ∧
       (∀ k, k < length.toNat → (∀ i, i < k → ¬ differs i) → differs k →
          t.rsp.mmValid = true ∧ t.rsp.mmAddr.toNat = start.toNat + k ∧
          t.trace = before ++ compareReads (windowByte s.cfg s.dev) s.host.ram start.toNat buf (k + 1)))

/-- The round trip of R67: a PROGRAM of an erased range inside an idle device whose calls are all answered OK, followed by
a VERIFY of the same range and buffer, finds no mismatch. -/
def Obligations.ProgramThenVerifyFindsNoMismatch : Prop :=
  ∀ (s : State) (start length buf seed : Word), s.Ready start length → length ≠ 0 →
    let chunks := chunkList s.cfg.geom.pageSize.toNat start.toNat length.toNat
    obliges (toggleCalls .indirect s.mode
      ++ (List.replicate chunks.length (wcmdCalls s.cfg.cat s.cfg.cat.tProgram)).flatten ++ [.plain]) s.dev.script
        = true →
    s.dev.busy = .idle → start.toNat + length.toNat ≤ s.cfg.geom.totalSize.toNat →
    start.toNat + length.toNat ≤ 2 ^ (8 * s.cfg.cat.addressBytes) →
    (∀ i, i < length.toNat → flashByte s.dev (start.toNat + i) = s.cfg.geom.eraseValue) →
    ∃ t u, exec (.program start length buf) s = .next t ∧ exec (.verify start length seed buf) t = .next u ∧
      u.rsp.status = .ok ∧ u.rsp.mmValid = false

/-- R53: a 1-byte window read and the lane of the aligned 4-byte read around it return the same byte, whichever comes
first, whatever instructions run between them, as long as none of them sends a program or erase command. The premises
are that the window is mapped and the machine's invariant (StepKeepsTheInvariant). -/
def Obligations.ByteReadIsItsLane : Prop :=
  ∀ (s t : State) (between : List Instr) (a : Nat), s.Inv → s.mode = .mapped → runLines between s = .next t →
    (∃ new, t.trace = s.trace ++ new ∧ sendsNoChange new) →
    (windowBytes s.cfg s.dev a 1)[0]? = (windowBytes t.cfg t.dev (floorTo 4 a) 4)[a - floorTo 4 a]? ∧
    (windowBytes t.cfg t.dev a 1)[0]? = (windowBytes s.cfg s.dev (floorTo 4 a) 4)[a - floorTo 4 a]?

/-- R54, R58: every window read of any request is of 1 or 4 bytes, and a 4-byte read is word-aligned. -/
def Obligations.WindowReadsAreAligned : Prop :=
  ∀ (i : Instr) (s t : State), exec i s = .next t →
    ∃ new, t.trace = s.trace ++ new ∧ ∀ a bytes, .memRd a bytes ∈ new →
      bytes.length = 1 ∨ (bytes.length = 4 ∧ a % 4 = 0)

/-! ## Short cuts, refusals and failures -/

/-- R150, R195, R205, R238: a request of length 0 (PROGRAM, CHECKSUM, VERIFY) completes at once: an OK response with
the seed as checksum, no call, no read, the mode unchanged, and no register but the response's written. -/
def Obligations.ZeroLengthRequestsDoNothing : Prop :=
  ∀ (s : State) (start seed buf : Word), s.cfg.wf = true → s.initDone = true → s.estate = .idle → s.curOp = 0 →
    exec (.program start 0 buf) s = .next { s with rsp := ⟨.ok, 0, 0, false, 0⟩ } ∧
    exec (.checksum start 0 seed) s = .next { s with rsp := ⟨.ok, 0, seed, false, 0⟩ } ∧
    exec (.verify start 0 seed buf) s = .next { s with rsp := ⟨.ok, 0, seed, false, 0⟩ }

/-- R228: a request other than INIT while INIT_DONE = 0 is refused. -/
def Obligations.RequestsBeforeInitAreRefused : Prop :=
  ∀ (i : Instr) (s : State), isRequest i = true → i ≠ .init → s.cfg.wf = true → s.initDone = false →
    exec i s = .refused .notInitialised

/-- R63: a request whose `start + length` exceeds 2^32 - 1 is refused. -/
def Obligations.OverflowingRangesAreRefused : Prop :=
  ∀ (s : State) (start length seed buf : Word), s.cfg.wf = true → s.initDone = true →
    2 ^ 32 - 1 < start.toNat + length.toNat →
    exec (.program start length buf) s = .refused .rangeOverflow ∧
    exec (.eraseRange start length) s = .refused .rangeOverflow ∧
    exec (.checksum start length seed) s = .refused .rangeOverflow ∧
    exec (.verify start length seed buf) s = .refused .rangeOverflow

/-- R10, R20: a configuration that is not well formed is refused, by every instruction and by `step`; no step of the
machine writes the configuration. -/
def Obligations.ConfigurationIsFixed : Prop :=
  (∀ (i : Instr) (s : State), s.cfg.wf = false → exec i s = .refused .badConfig ∧ step s = .refused .badConfig) ∧
  ∀ s t : State, step s = .next t → t.cfg = s.cfg

/-- R137: a failing answer ends the request: it is the last event of the request, it is reported unchanged (INIT
reports INIT_ERROR), and an OK response means that every call was answered OK. -/
def Obligations.FirstFailureEndsTheRequest : Prop :=
  ∀ (i : Instr) (s t : State), isRequest i = true → exec i s = .next t →
    ∃ new, t.trace = s.trace ++ new ∧ (∀ e ∈ new.dropLast, answeredOk e = true) ∧
      (t.rsp.status = .ok ↔ ∀ e ∈ new, answeredOk e = true) ∧
      (∀ e a, new.getLast? = some e → eventAnswer e = some a → a ≠ .ok → t.rsp.status = failureStatus i a)

/-- R235, R236: the report of a failure: the fields other than STATUS and ERR_ADDR are 0; the error address is 0 for
INIT and ERASE_ALL and `start` for CHECKSUM, VERIFY and a failed ABORT; for PROGRAM it is `start` or a page boundary
inside the range, for ERASE_RANGE a sector-aligned offset up to `start + length`. The block is idle again and MODE is
what the answered calls made it. -/
def Obligations.FailureReport : Prop :=
  ∀ (i : Instr) (s t : State), isRequest i = true → exec i s = .next t → t.rsp.status ≠ .ok →
    t.rsp.checksum = 0 ∧ t.rsp.mmValid = false ∧ t.rsp.mmAddr = 0 ∧ t.estate = .idle ∧ t.curOp = 0 ∧
    ∃ new, t.trace = s.trace ++ new ∧ t.mode = modeAfterAll s.mode new ∧
      (match i with
        | .init | .eraseAll => t.rsp.errAddr = 0
        | .checksum start _ _ | .verify start _ _ _ => t.rsp.errAddr = start
        | .program start length _ =>
          t.rsp.errAddr = start ∨
            (new.getLast? ≠ some (.abort .busError) ∧ t.rsp.errAddr.toNat % s.cfg.geom.pageSize.toNat = 0 ∧
              start.toNat < t.rsp.errAddr.toNat ∧ t.rsp.errAddr.toNat < start.toNat + length.toNat)
        | .eraseRange start length =>
          (new.getLast? = some (.abort .busError) ∧ t.rsp.errAddr = start) ∨
            (new.getLast? ≠ some (.abort .busError) ∧ t.rsp.errAddr.toNat % s.cfg.geom.sectorSize.toNat = 0 ∧
              floorTo s.cfg.geom.sectorSize.toNat start.toNat ≤ t.rsp.errAddr.toNat ∧
              t.rsp.errAddr.toNat ≤ start.toNat + length.toNat)
        | _ => True)

/-- R154, R235: a PROGRAM that fails did so in its ABORT, reporting `start`; or in the elementary command of one chunk
of R152, at the first call not answered OK, reporting that chunk's offset: the chunks before it were issued whole and
no later one. If the range was erased, inside the device and the address width, and the device idle (logs 5 to 7), the
bytes of the chunks before it hold their buffer bytes. -/
def Obligations.FailedProgramReportsItsChunk : Prop :=
  ∀ (s t : State) (start length buf : Word), exec (.program start length buf) s = .next t → t.rsp.status ≠ .ok →
    let chunks := chunkList s.cfg.geom.pageSize.toNat start.toNat length.toNat
    (s.mode = .mapped ∧ t.trace = s.trace ++ [.abort .busError] ∧ t.mode = .mapped ∧
      t.rsp = { status := .busError, errAddr := start, checksum := 0, mmValid := false, mmAddr := 0 }) ∨
    (∃ j c n e r, chunks[j]? = some c ∧
      (let payload := bufferBytes s.host.ram buf (c.1 - start.toNat) c.2
       let calls := wcmdTrace s.cfg.cat .pageProgram c.1 payload s.cfg.cat.tProgram
       calls[n]? = some e ∧ r ≠ .ok ∧ (r = .timedOut → n = 1 ∨ n = 3) ∧
       t.trace = s.trace ++ toggleTrace s.cfg.cat .indirect s.mode
         ++ programTrace s.cfg.cat s.host.ram buf start.toNat (chunks.take j)
         ++ bufferReads s.host.ram buf (c.1 - start.toNat) c.2 ++ calls.take n ++ [withAnswer e r] ∧
       t.mode = .indirect ∧ t.rsp.status = statusOf r ∧ t.rsp.errAddr.toNat = c.1) ∧
      (s.dev.busy = .idle → start.toNat + length.toNat ≤ s.cfg.geom.totalSize.toNat →
        start.toNat + length.toNat ≤ 2 ^ (8 * s.cfg.cat.addressBytes) →
        (∀ i, i < length.toNat → flashByte s.dev (start.toNat + i) = s.cfg.geom.eraseValue) →
        ∀ i, start.toNat + i < c.1 → flashByte t.dev (start.toNat + i) = bufferByte s.host.ram buf i))

/-- R165, R235: an ERASE_RANGE that fails did so in its ABORT, reporting `start`; or in the elementary command of one
sector of R167 (a), at the first call not answered OK, reporting that sector's offset: the sectors before it were
issued whole and no later one. -/
def Obligations.FailedEraseReportsItsSector : Prop :=
  ∀ (s t : State) (start length : Word), exec (.eraseRange start length) s = .next t → t.rsp.status ≠ .ok →
    let sectors := sectorList s.cfg.geom.sectorSize.toNat start.toNat length.toNat
    (s.mode = .mapped ∧ t.trace = s.trace ++ [.abort .busError] ∧ t.mode = .mapped ∧
      t.rsp = { status := .busError, errAddr := start, checksum := 0, mmValid := false, mmAddr := 0 }) ∨
    (∃ j a n e r, sectors[j]? = some a ∧
      (let calls := wcmdTrace s.cfg.cat .sectorErase a [] s.cfg.cat.tSectorErase
       calls[n]? = some e ∧ r ≠ .ok ∧ (r = .timedOut → n = 1 ∨ n = 3) ∧
       t.trace = s.trace ++ toggleTrace s.cfg.cat .indirect s.mode ++ eraseTrace s.cfg.cat (sectors.take j)
         ++ calls.take n ++ [withAnswer e r] ∧
       t.mode = .indirect ∧ t.rsp.status = statusOf r ∧ t.rsp.errAddr.toNat = a))

/-! ## Frames and whole-machine rules -/

/-- R25 to R29, R36 (who writes each register): an instruction leaves the configuration, the host and the sequencer's
position; INIT_DONE changes only in INIT, the splitter's registers only in PROGRAM, the erase sequencer's only in
ERASE_RANGE, the accumulator's only in CHECKSUM and VERIFY, VERIFY's only in VERIFY; CHECKSUM and VERIFY leave the
comparator's; and a bus command or a transport call leaves ESTATE, CUR_OP and the response registers. -/
def Obligations.RegisterFrames : Prop :=
  ∀ (i : Instr) (s t : State), exec i s = .next t →
    t.cfg = s.cfg ∧ t.host = s.host ∧ t.seq.pos = s.seq.pos ∧
    (i ≠ .init → t.initDone = s.initDone) ∧
    ((∀ start length buf, i ≠ .program start length buf) → t.spl = s.spl) ∧
    ((∀ start length, i ≠ .eraseRange start length) → t.ers = s.ers) ∧
    ((∀ start length seed, i ≠ .checksum start length seed) →
      (∀ start length seed buf, i ≠ .verify start length seed buf) → t.cks = s.cks) ∧
    ((∀ start length seed buf, i ≠ .verify start length seed buf) → t.vfy = s.vfy) ∧
    ((∃ start length seed, i = .checksum start length seed) ∨
      (∃ start length seed buf, i = .verify start length seed buf) → t.pol = s.pol) ∧
    (isRequest i = false → t.estate = s.estate ∧ t.esLog = s.esLog ∧ t.curOp = s.curOp ∧ t.rsp = s.rsp)

/-- R31: a request reads no datapath register, no response register and no local of the sequencer that an earlier one
left: with other values in them it runs to the same response, trace, mode, ESTATE, environment and host. So no request
sees the values that logs 11 and 12 give them at reset. -/
def Obligations.RequestsReadNoEarlierRegister : Prop :=
  ∀ (i : Instr) (s t : State) (spl : Splitter) (ers : Eraser) (cks : Summer) (vfy : Verifier) (pol : Poller)
    (rsp : Response) (cmd : BusCmd) (ret : Answer), isRequest i = true → exec i s = .next t →
    ∃ u,
      exec i
        { s with
          spl := spl, ers := ers, cks := cks, vfy := vfy, pol := pol, rsp := rsp
          seq := { s.seq with cmd := cmd, ret := ret } } = .next u ∧
      u =
        { t with
          spl := u.spl, ers := u.ers, cks := u.cks, vfy := u.vfy, pol := u.pol
          seq := { t.seq with cmd := u.seq.cmd, ret := u.seq.ret } }

/-- R34, R60: whatever the environment answers, an instruction changes no flash byte but those of a command in execution
or unfinished before it and those that a program or erase command it sends may change. Which bytes a command may change
is `commandSpan`: its page, sector or device, at the truncated offset (log 25), and any byte out of geometry (log 6);
that a command sent while the device may be busy changes no byte outside both commands' spans is log 8. -/
def Obligations.StoredBytesFrame : Prop :=
  ∀ (i : Instr) (s t : State), exec i s = .next t →
    ∃ new, t.trace = s.trace ++ new ∧ ∀ a, unsettled s.dev a = false → untouched s.cfg new a →
      flashByte t.dev a = flashByte s.dev a

/-- R14, R34, R59, R104: CHECKSUM, VERIFY, MAP, ABORT and the bus commands change no stored byte and no byte the window
shows. In the model's own fields: they leave the latch (log 9) and the counter of program and erase commands (log 3),
and leave the commands in execution as they are or only make their results unknown (MAP, log 8). -/
def Obligations.ReadingLeavesTheDevice : Prop :=
  ∀ (i : Instr) (s t : State), exec i s = .next t →
    ((∃ start length seed, i = .checksum start length seed) ∨
      (∃ start length seed buf, i = .verify start length seed buf) ∨ i = .map ∨ i = .abort ∨
      formatOf i = .busCmd) →
    t.dev.flash = s.dev.flash ∧ t.dev.wel = s.dev.wel ∧ t.dev.epoch = s.dev.epoch ∧
      (∀ a, windowByte t.cfg t.dev a = windowByte s.cfg s.dev a) ∧
      (t.dev.inflight = s.dev.inflight ∨ t.dev.inflight = s.dev.inflight.map forget) ∧
      (i = .abort ∨ formatOf i = .busCmd ∨ s.dev.quiet = true → t.dev.inflight = s.dev.inflight)

/-- R180, R21: whatever the environment answers, a request issues no SEND, POLL or MAP while the mode is MAPPED and no
window read or ABORT while it is INDIRECT, the mode being moved by its own MAP and ABORT answered OK; and MODE ends as
those left it. -/
def Obligations.ModeDiscipline : Prop :=
  ∀ (i : Instr) (s t : State), isRequest i = true → exec i s = .next t →
    ∃ new, t.trace = s.trace ++ new ∧ disciplined s.mode new = true ∧ t.mode = modeAfterAll s.mode new

/-- R185: after an OK response of PROGRAM with `length ≥ 1`, ERASE_RANGE or ERASE_ALL, MODE = INDIRECT; after one of
CHECKSUM or VERIFY with `length ≥ 1`, MAPPED; after an OK INIT, MAPPED exactly when `xip_after_init`. A PROGRAM in
MAPPED begins with ABORT, a VERIFY in INDIRECT with MAP, and a CHECKSUM in MAPPED emits no MAP. -/
def Obligations.ModeSequences : Prop :=
  ∀ (i : Instr) (s t : State), exec i s = .next t →
    ∃ new, t.trace = s.trace ++ new ∧
      (match i with
        | .init => t.rsp.status = .ok → (t.mode = .mapped ↔ s.cfg.cat.xipAfterInit = true)
        | .program _ length _ => length ≠ 0 →
          (t.rsp.status = .ok → t.mode = .indirect) ∧ (s.mode = .mapped → ∃ r, new.head? = some (.abort r))
        | .eraseRange _ _ | .eraseAll => t.rsp.status = .ok → t.mode = .indirect
        | .checksum _ length _ => length ≠ 0 →
          (t.rsp.status = .ok → t.mode = .mapped) ∧ (s.mode = .mapped → ∀ cmd r, .map cmd r ∉ new)
        | .verify _ length _ _ => length ≠ 0 →
          (t.rsp.status = .ok → t.mode = .mapped) ∧
            (s.mode = .indirect → ∃ r, new.head? = some (.map (encodeCmd s.cfg.cat .quadRead 0 []) r))
        | _ => True)

/-- R66, R264, R265: in every request, a program or erase command is sent only right after WRITE_ENABLE answered OK and
a WEL wait answered OK. Where its SEND was answered OK a WIP wait follows at once, and nothing follows that wait unless
it was answered OK; where its SEND was not, nothing follows it. -/
def Obligations.WriteEnableAndCompletionBarrier : Prop :=
  ∀ (i : Instr) (s t : State), isRequest i = true → exec i s = .next t →
    ∃ new, t.trace = s.trace ++ new ∧
      ∀ pre cmd r post, new = pre ++ .send cmd r :: post → changesFlash cmd.kind = true →
        (∃ before, pre = before ++
          [.send (encodeCmd s.cfg.cat .writeEnable 0 []) .ok,
           .poll (encodeCmd s.cfg.cat .readStatus 0 []) (welWait s.cfg.cat) .ok]) ∧
        (r ≠ .ok → post = []) ∧
        (r = .ok → ∃ tmo a rest,
          post = .poll (encodeCmd s.cfg.cat .readStatus 0 []) (wipWait s.cfg.cat tmo) a :: rest ∧
            (rest ≠ [] → a = .ok))

/-- R136: from ESTATE = IDLE, every change of ESTATE in a step is one the table lists, each starts where the one before
ended, and the step ends in IDLE. -/
def Obligations.EstateFollowsItsTable : Prop :=
  ∀ s t : State, step s = .next t → s.estate = .idle →
    t.estate = .idle ∧ ∃ new, t.esLog = s.esLog ++ new ∧ (∀ p ∈ new, estateTransition p.1 p.2 = true) ∧
      new.IsChain (fun p q => q.1 = p.2) ∧ (∀ p, new.head? = some p → p.1 = .idle) ∧
      (∀ p, new.getLast? = some p → p.2 = .idle)

/-- Every step keeps the invariant: a well-formed configuration, flash and RAM in canonical form, ESTATE = IDLE and
CUR_OP = 0 between steps (R10, R23, R24), and no command in execution whose result is still awaited while the window is
mapped (R265; in the model's field of log 5). -/
def Obligations.StepKeepsTheInvariant : Prop :=
  ∀ s t : State, s.Inv → step s = .next t → t.Inv

/-- The invariant holds after reset. -/
def Obligations.ResetMeetsTheInvariant : Prop := State.reset.Inv

/-- R4, R65: a step only appends to the bus trace; what was recorded stays, across requests and a block reset (that one
trace is kept from the start is log 20). The model's counter of calls and reads does not fall (log 3). -/
def Obligations.TraceOnlyGrows : Prop :=
  ∀ s t : State, step s = .next t → s.trace <+: t.trace ∧ s.dev.tick ≤ t.dev.tick

/-- R260: block reset sets MODE, INIT_DONE, ESTATE, CUR_OP and every RSP field, and leaves the configuration (R20); the
block then waits for a request, at no line of any rule. The machine starts with those values. That a block reset is a
move of the host between two requests, and that it keeps the trace and host RAM, is the model's choice (log 23). -/
def Obligations.BlockResetSetsTheBlock : Prop :=
  (State.reset.mode = .indirect ∧ State.reset.initDone = false ∧ State.reset.estate = .idle ∧ State.reset.curOp = 0 ∧
    State.reset.rsp = ⟨.ok, 0, 0, false, 0⟩ ∧ State.reset.seq.pos = none) ∧
  ∀ (s : State) (moves : List HostMove), s.cfg.wf = true → s.seq.pos = none →
    s.host.moves = .blockReset :: moves →
    ∃ t, step s = .next t ∧ t.mode = .indirect ∧ t.initDone = false ∧ t.estate = .idle ∧ t.curOp = 0 ∧
      t.rsp = ⟨.ok, 0, 0, false, 0⟩ ∧ t.seq.pos = none ∧ t.cfg = s.cfg ∧ t.trace = s.trace ∧
      t.host = { moves := moves, ram := s.host.ram }

/-- A step runs the decoded instruction (R3, R24, R225): the host's next request, whose buffer is stored in RAM first
(that a request carries its buffer is log 10), or the encoded line the sequencer stands at, which it leaves with the
BUSCMD of a call's record as its `cmd` (that a step can start at such a line is log 13). -/
def Obligations.StepRunsTheDecodedInstruction : Prop :=
  ∀ (s : State) (i : Instr), s.cfg.wf = true →
    (∀ r, s.seq.pos = some r → decode s.cfg.cat r = .ok i →
      step s = exec i { s with seq := { s.seq with pos := none, cmd := (recordCmd s.cfg.cat r).getD s.seq.cmd } }) ∧
    (∀ req buffer moves, s.seq.pos = none → s.host.moves = .request req buffer :: moves → decodeReq req = some i →
      step s = exec i { s with host := { moves := moves, ram := ramStore s.host.ram buffer } })

/-- R77, R90: a request's text, read back, is the request; so no operand of R90's forms is lost. -/
def Obligations.RequestTextReadsBack : Prop :=
  ∀ (i : Instr) (text : String), requestText i = some text → parseRequest text = some i

/-- R85: the record of a SEND, POLL or MAP carries its BUSCMD. For a command the encoder makes, a SEND record decodes to
SEND with that command as its operand, a POLL record with the READ_STATUS command to POLL with its POLLSPEC, a MAP
record with the QUAD_READ command to MAP. That a record whose BUSCMD no kind encodes to is refused by name is the
model's choice (log 13), and so is the premise that the nine opcode bytes of the catalog differ (log 28). -/
def Obligations.CallRecordsCarryTheirCommand : Prop :=
  ∀ (cfg : Cfg), cfg.wf = true → cfg.cat.distinctOpcodes = true →
    (∀ k a payload, let c := encodeCmd cfg.cat k a payload
      decode cfg.cat (callRecord 0 c []) = .ok .send ∧ recordCmd cfg.cat (callRecord 0 c []) = some c) ∧
    (∀ spec, decode cfg.cat (callRecord 1 (encodeCmd cfg.cat .readStatus 0 []) (pollSpecWords spec)) = .ok (.poll spec)) ∧
    decode cfg.cat (callRecord 2 (encodeCmd cfg.cat .quadRead 0 []) []) = .ok .map ∧
    (∀ c tail, c.w0 ≠ 0 → (∀ k a payload, { encodeCmd cfg.cat k a payload with kind := c.kind } ≠ c) →
      ∀ kind : Word, kind.toNat ≤ 3 → decode cfg.cat (callRecord kind c tail) = .error .foreignCommand)

/-- R264, R32: a POLL that took a sample leaves the latch as its last sample read it; a program or erase whose SEND finds
it not set writes no stored byte, and one that finds it clear on an idle device, in geometry and answered OK, changes
no flash byte and leaves the device idle. What the model keeps of the latch, and that such a command is ignored, is
log 9. -/
def Obligations.LatchGatesProgramAndErase : Prop :=
  (∀ (s t : State) (spec : PollSpec), exec (.poll spec) s = .next t → t.pol.count ≠ 0 →
    (t.dev.wel = .set ↔ t.pol.sample &&& s.cfg.cat.welBit = s.cfg.cat.welBit) ∧
      (t.dev.wel = .clear ↔ t.pol.sample &&& s.cfg.cat.welBit = 0)) ∧
  ∀ (s : State), s.cfg.wf = true → s.mode = .indirect → ddirField s.seq.cmd.w0 ≠ 1 →
    changesFlash s.seq.cmd.kind = true → s.dev.wel ≠ .set →
    ∃ t, exec .send s = .next t ∧ t.dev.flash = s.dev.flash ∧ t.dev.wel ≠ .set ∧
      (s.dev.wel = .clear → s.dev.busy = .idle → t.seq.ret = .ok →
        (∀ runs, commandRuns s.cfg s.seq.cmd = some runs → inGeometry s.cfg runs = true) →
        t.dev.busy = .idle ∧ ∀ a, flashByte t.dev a = flashByte s.dev a)
end

