-- ==== Sys2Proof/Laws/State.lean ====
section
/-! SUPPORT. What each shared operation leaves in each field of State: one lemma per field per operation, so that no
proof unfolds a record update. -/

namespace Sys2Proof.Machine

/-! ## ESTATE -/

theorem setEState_cases (e : EState) (s : State) :
    (s.estate = e ∧ setEState e s = s) ∨
      (s.estate ≠ e ∧ setEState e s = { s with estate := e, esLog := s.esLog ++ [(s.estate, e)] }) := by
  unfold setEState
  split
  · exact .inl ⟨‹_›, rfl⟩
  · exact .inr ⟨‹_›, rfl⟩

@[simp] theorem setEState_estate (e : EState) (s : State) : (setEState e s).estate = e := by
  unfold setEState; split
  · assumption
  · rfl

theorem setEState_esLog (e : EState) (s : State) :
    (setEState e s).esLog = if s.estate = e then s.esLog else s.esLog ++ [(s.estate, e)] := by
  unfold setEState; split <;> rfl

@[simp] theorem setEState_cfg (e : EState) (s : State) : (setEState e s).cfg = s.cfg := by
  unfold setEState; split <;> rfl
@[simp] theorem setEState_mode (e : EState) (s : State) : (setEState e s).mode = s.mode := by
  unfold setEState; split <;> rfl
@[simp] theorem setEState_initDone (e : EState) (s : State) : (setEState e s).initDone = s.initDone := by
  unfold setEState; split <;> rfl
@[simp] theorem setEState_curOp (e : EState) (s : State) : (setEState e s).curOp = s.curOp := by
  unfold setEState; split <;> rfl
@[simp] theorem setEState_seq (e : EState) (s : State) : (setEState e s).seq = s.seq := by
  unfold setEState; split <;> rfl
@[simp] theorem setEState_spl (e : EState) (s : State) : (setEState e s).spl = s.spl := by
  unfold setEState; split <;> rfl
@[simp] theorem setEState_ers (e : EState) (s : State) : (setEState e s).ers = s.ers := by
  unfold setEState; split <;> rfl
@[simp] theorem setEState_cks (e : EState) (s : State) : (setEState e s).cks = s.cks := by
  unfold setEState; split <;> rfl
@[simp] theorem setEState_vfy (e : EState) (s : State) : (setEState e s).vfy = s.vfy := by
  unfold setEState; split <;> rfl
@[simp] theorem setEState_pol (e : EState) (s : State) : (setEState e s).pol = s.pol := by
  unfold setEState; split <;> rfl
@[simp] theorem setEState_rsp (e : EState) (s : State) : (setEState e s).rsp = s.rsp := by
  unfold setEState; split <;> rfl
@[simp] theorem setEState_dev (e : EState) (s : State) : (setEState e s).dev = s.dev := by
  unfold setEState; split <;> rfl
@[simp] theorem setEState_host (e : EState) (s : State) : (setEState e s).host = s.host := by
  unfold setEState; split <;> rfl
@[simp] theorem setEState_trace (e : EState) (s : State) : (setEState e s).trace = s.trace := by
  unfold setEState; split <;> rfl

/-! ## emit -/

@[simp] theorem emit_cfg (e : Event) (s : State) : (emit e s).cfg = s.cfg := rfl
@[simp] theorem emit_mode (e : Event) (s : State) : (emit e s).mode = s.mode := rfl
@[simp] theorem emit_initDone (e : Event) (s : State) : (emit e s).initDone = s.initDone := rfl
@[simp] theorem emit_estate (e : Event) (s : State) : (emit e s).estate = s.estate := rfl
@[simp] theorem emit_curOp (e : Event) (s : State) : (emit e s).curOp = s.curOp := rfl
@[simp] theorem emit_seq (e : Event) (s : State) : (emit e s).seq = s.seq := rfl
@[simp] theorem emit_spl (e : Event) (s : State) : (emit e s).spl = s.spl := rfl
@[simp] theorem emit_ers (e : Event) (s : State) : (emit e s).ers = s.ers := rfl
@[simp] theorem emit_cks (e : Event) (s : State) : (emit e s).cks = s.cks := rfl
@[simp] theorem emit_vfy (e : Event) (s : State) : (emit e s).vfy = s.vfy := rfl
@[simp] theorem emit_pol (e : Event) (s : State) : (emit e s).pol = s.pol := rfl
@[simp] theorem emit_rsp (e : Event) (s : State) : (emit e s).rsp = s.rsp := rfl
@[simp] theorem emit_dev (e : Event) (s : State) : (emit e s).dev = s.dev := rfl
@[simp] theorem emit_host (e : Event) (s : State) : (emit e s).host = s.host := rfl
@[simp] theorem emit_trace (e : Event) (s : State) : (emit e s).trace = s.trace ++ [e] := rfl
@[simp] theorem emit_esLog (e : Event) (s : State) : (emit e s).esLog = s.esLog := rfl

/-! ## encodeOp -/

@[simp] theorem encodeOp_cfg (k : Kind) (a : Nat) (p : List Byte) (s : State) : (encodeOp k a p s).cfg = s.cfg := rfl
@[simp] theorem encodeOp_mode (k : Kind) (a : Nat) (p : List Byte) (s : State) :
    (encodeOp k a p s).mode =
      s.mode := rfl
@[simp] theorem encodeOp_initDone (k : Kind) (a : Nat) (p : List Byte) (s : State) :
    (encodeOp k a p s).initDone =
      s.initDone := rfl
@[simp] theorem encodeOp_estate (k : Kind) (a : Nat) (p : List Byte) (s : State) :
    (encodeOp k a p s).estate =
      s.estate := rfl
@[simp] theorem encodeOp_curOp (k : Kind) (a : Nat) (p : List Byte) (s : State) :
    (encodeOp k a p s).curOp =
      s.curOp := rfl
@[simp] theorem encodeOp_seq (k : Kind) (a : Nat) (p : List Byte) (s : State) :
    (encodeOp k a p s).seq =
      { s.seq with cmd := encodeCmd s.cfg.cat k a p } := rfl
@[simp] theorem encodeOp_spl (k : Kind) (a : Nat) (p : List Byte) (s : State) : (encodeOp k a p s).spl = s.spl := rfl
@[simp] theorem encodeOp_ers (k : Kind) (a : Nat) (p : List Byte) (s : State) : (encodeOp k a p s).ers = s.ers := rfl
@[simp] theorem encodeOp_cks (k : Kind) (a : Nat) (p : List Byte) (s : State) : (encodeOp k a p s).cks = s.cks := rfl
@[simp] theorem encodeOp_vfy (k : Kind) (a : Nat) (p : List Byte) (s : State) : (encodeOp k a p s).vfy = s.vfy := rfl
@[simp] theorem encodeOp_pol (k : Kind) (a : Nat) (p : List Byte) (s : State) : (encodeOp k a p s).pol = s.pol := rfl
@[simp] theorem encodeOp_rsp (k : Kind) (a : Nat) (p : List Byte) (s : State) : (encodeOp k a p s).rsp = s.rsp := rfl
@[simp] theorem encodeOp_dev (k : Kind) (a : Nat) (p : List Byte) (s : State) : (encodeOp k a p s).dev = s.dev := rfl
@[simp] theorem encodeOp_host (k : Kind) (a : Nat) (p : List Byte) (s : State) :
    (encodeOp k a p s).host =
      s.host := rfl
@[simp] theorem encodeOp_trace (k : Kind) (a : Nat) (p : List Byte) (s : State) :
    (encodeOp k a p s).trace =
      s.trace := rfl
@[simp] theorem encodeOp_esLog (k : Kind) (a : Nat) (p : List Byte) (s : State) :
    (encodeOp k a p s).esLog =
      s.esLog := rfl

/-! ## sendOp -/

@[simp] theorem sendOp_cfg (s : State) : (sendOp s).cfg = s.cfg := rfl
@[simp] theorem sendOp_mode (s : State) : (sendOp s).mode = s.mode := rfl
@[simp] theorem sendOp_initDone (s : State) : (sendOp s).initDone = s.initDone := rfl
@[simp] theorem sendOp_estate (s : State) : (sendOp s).estate = s.estate := rfl
@[simp] theorem sendOp_curOp (s : State) : (sendOp s).curOp = s.curOp := rfl
@[simp] theorem sendOp_seq (s : State) : (sendOp s).seq = { s.seq with ret := callAnswer (nextDraw s.dev) } := rfl
@[simp] theorem sendOp_spl (s : State) : (sendOp s).spl = s.spl := rfl
@[simp] theorem sendOp_ers (s : State) : (sendOp s).ers = s.ers := rfl
@[simp] theorem sendOp_cks (s : State) : (sendOp s).cks = s.cks := rfl
@[simp] theorem sendOp_vfy (s : State) : (sendOp s).vfy = s.vfy := rfl
@[simp] theorem sendOp_pol (s : State) : (sendOp s).pol = s.pol := rfl
@[simp] theorem sendOp_rsp (s : State) : (sendOp s).rsp = s.rsp := rfl
@[simp] theorem sendOp_dev (s : State) :
    (sendOp s).dev =
      consumeDraw (deviceSend s.cfg (callAnswer (nextDraw s.dev)) s.seq.cmd s.dev) := rfl
@[simp] theorem sendOp_host (s : State) : (sendOp s).host = s.host := rfl
@[simp] theorem sendOp_trace (s : State) :
    (sendOp s).trace =
      s.trace ++ [.send s.seq.cmd (callAnswer (nextDraw s.dev))] := rfl
@[simp] theorem sendOp_esLog (s : State) : (sendOp s).esLog = s.esLog := rfl

/-! ## pollOp -/

@[simp] theorem pollOp_cfg (p : PollSpec) (s : State) : (pollOp p s).cfg = s.cfg := rfl
@[simp] theorem pollOp_mode (p : PollSpec) (s : State) : (pollOp p s).mode = s.mode := rfl
@[simp] theorem pollOp_initDone (p : PollSpec) (s : State) : (pollOp p s).initDone = s.initDone := rfl
@[simp] theorem pollOp_estate (p : PollSpec) (s : State) : (pollOp p s).estate = s.estate := rfl
@[simp] theorem pollOp_curOp (p : PollSpec) (s : State) : (pollOp p s).curOp = s.curOp := rfl
@[simp] theorem pollOp_seq (p : PollSpec) (s : State) :
    (pollOp p s).seq =
      { s.seq with cmd := encodeCmd s.cfg.cat .readStatus 0 [], ret := (runPoll (nextDraw s.dev) s.dev.tick p s.pol).1 } := rfl
@[simp] theorem pollOp_spl (p : PollSpec) (s : State) : (pollOp p s).spl = s.spl := rfl
@[simp] theorem pollOp_ers (p : PollSpec) (s : State) : (pollOp p s).ers = s.ers := rfl
@[simp] theorem pollOp_cks (p : PollSpec) (s : State) : (pollOp p s).cks = s.cks := rfl
@[simp] theorem pollOp_vfy (p : PollSpec) (s : State) : (pollOp p s).vfy = s.vfy := rfl
@[simp] theorem pollOp_pol (p : PollSpec) (s : State) :
    (pollOp p s).pol =
      (runPoll (nextDraw s.dev) s.dev.tick p s.pol).2 := rfl
@[simp] theorem pollOp_rsp (p : PollSpec) (s : State) : (pollOp p s).rsp = s.rsp := rfl
@[simp] theorem pollOp_dev (p : PollSpec) (s : State) :
    (pollOp p s).dev =
      consumeDraw (devicePoll s.cfg (runPoll (nextDraw s.dev) s.dev.tick p s.pol).1 p
        (runPoll (nextDraw s.dev) s.dev.tick p s.pol).2 s.dev) := rfl
@[simp] theorem pollOp_host (p : PollSpec) (s : State) : (pollOp p s).host = s.host := rfl
@[simp] theorem pollOp_trace (p : PollSpec) (s : State) :
    (pollOp p s).trace =
      s.trace ++ [.poll (encodeCmd s.cfg.cat .readStatus 0 []) p (runPoll (nextDraw s.dev) s.dev.tick p s.pol).1] := rfl
@[simp] theorem pollOp_esLog (p : PollSpec) (s : State) : (pollOp p s).esLog = s.esLog := rfl

/-! ## mapOp -/

@[simp] theorem mapOp_cfg (s : State) : (mapOp s).cfg = s.cfg := rfl
@[simp] theorem mapOp_mode (s : State) :
    (mapOp s).mode =
      if callAnswer (nextDraw s.dev) = .ok then .mapped else s.mode := rfl
@[simp] theorem mapOp_initDone (s : State) : (mapOp s).initDone = s.initDone := rfl
@[simp] theorem mapOp_estate (s : State) : (mapOp s).estate = s.estate := rfl
@[simp] theorem mapOp_curOp (s : State) : (mapOp s).curOp = s.curOp := rfl
@[simp] theorem mapOp_seq (s : State) :
    (mapOp s).seq =
      { s.seq with cmd := encodeCmd s.cfg.cat .quadRead 0 [], ret := callAnswer (nextDraw s.dev) } := rfl
@[simp] theorem mapOp_spl (s : State) : (mapOp s).spl = s.spl := rfl
@[simp] theorem mapOp_ers (s : State) : (mapOp s).ers = s.ers := rfl
@[simp] theorem mapOp_cks (s : State) : (mapOp s).cks = s.cks := rfl
@[simp] theorem mapOp_vfy (s : State) : (mapOp s).vfy = s.vfy := rfl
@[simp] theorem mapOp_pol (s : State) : (mapOp s).pol = s.pol := rfl
@[simp] theorem mapOp_rsp (s : State) : (mapOp s).rsp = s.rsp := rfl
@[simp] theorem mapOp_dev (s : State) :
    (mapOp s).dev =
      consumeDraw { disturb s.dev with ctrlMode := ctrlAfter (callAnswer (nextDraw s.dev)) .mapped s.dev } := rfl
@[simp] theorem mapOp_host (s : State) : (mapOp s).host = s.host := rfl
@[simp] theorem mapOp_trace (s : State) :
    (mapOp s).trace =
      s.trace ++ [.map (encodeCmd s.cfg.cat .quadRead 0 []) (callAnswer (nextDraw s.dev))] := rfl
@[simp] theorem mapOp_esLog (s : State) : (mapOp s).esLog = s.esLog := rfl

/-! ## abortOp -/

@[simp] theorem abortOp_cfg (s : State) : (abortOp s).cfg = s.cfg := rfl
@[simp] theorem abortOp_mode (s : State) :
    (abortOp s).mode =
      if callAnswer (nextDraw s.dev) = .ok then .indirect else s.mode := rfl
@[simp] theorem abortOp_initDone (s : State) : (abortOp s).initDone = s.initDone := rfl
@[simp] theorem abortOp_estate (s : State) : (abortOp s).estate = s.estate := rfl
@[simp] theorem abortOp_curOp (s : State) : (abortOp s).curOp = s.curOp := rfl
@[simp] theorem abortOp_seq (s : State) : (abortOp s).seq = { s.seq with ret := callAnswer (nextDraw s.dev) } := rfl
@[simp] theorem abortOp_spl (s : State) : (abortOp s).spl = s.spl := rfl
@[simp] theorem abortOp_ers (s : State) : (abortOp s).ers = s.ers := rfl
@[simp] theorem abortOp_cks (s : State) : (abortOp s).cks = s.cks := rfl
@[simp] theorem abortOp_vfy (s : State) : (abortOp s).vfy = s.vfy := rfl
@[simp] theorem abortOp_pol (s : State) : (abortOp s).pol = s.pol := rfl
@[simp] theorem abortOp_rsp (s : State) : (abortOp s).rsp = s.rsp := rfl
@[simp] theorem abortOp_dev (s : State) :
    (abortOp s).dev =
      consumeDraw { s.dev with ctrlMode := ctrlAfter (callAnswer (nextDraw s.dev)) .indirect s.dev } := rfl
@[simp] theorem abortOp_host (s : State) : (abortOp s).host = s.host := rfl
@[simp] theorem abortOp_trace (s : State) :
    (abortOp s).trace =
      s.trace ++ [.abort (callAnswer (nextDraw s.dev))] := rfl
@[simp] theorem abortOp_esLog (s : State) : (abortOp s).esLog = s.esLog := rfl

/-! ## memReadOp -/

@[simp] theorem memReadOp_cfg (a n : Nat) (s : State) : (memReadOp a n s).cfg = s.cfg := rfl
@[simp] theorem memReadOp_mode (a n : Nat) (s : State) : (memReadOp a n s).mode = s.mode := rfl
@[simp] theorem memReadOp_initDone (a n : Nat) (s : State) : (memReadOp a n s).initDone = s.initDone := rfl
@[simp] theorem memReadOp_estate (a n : Nat) (s : State) : (memReadOp a n s).estate = s.estate := rfl
@[simp] theorem memReadOp_curOp (a n : Nat) (s : State) : (memReadOp a n s).curOp = s.curOp := rfl
@[simp] theorem memReadOp_seq (a n : Nat) (s : State) : (memReadOp a n s).seq = s.seq := rfl
@[simp] theorem memReadOp_spl (a n : Nat) (s : State) : (memReadOp a n s).spl = s.spl := rfl
@[simp] theorem memReadOp_ers (a n : Nat) (s : State) : (memReadOp a n s).ers = s.ers := rfl
@[simp] theorem memReadOp_cks (a n : Nat) (s : State) : (memReadOp a n s).cks = s.cks := rfl
@[simp] theorem memReadOp_vfy (a n : Nat) (s : State) : (memReadOp a n s).vfy = s.vfy := rfl
@[simp] theorem memReadOp_pol (a n : Nat) (s : State) : (memReadOp a n s).pol = s.pol := rfl
@[simp] theorem memReadOp_rsp (a n : Nat) (s : State) : (memReadOp a n s).rsp = s.rsp := rfl
@[simp] theorem memReadOp_dev (a n : Nat) (s : State) :
    (memReadOp a n s).dev =
      { s.dev with tick := s.dev.tick + 1 } := rfl
@[simp] theorem memReadOp_host (a n : Nat) (s : State) : (memReadOp a n s).host = s.host := rfl
@[simp] theorem memReadOp_trace (a n : Nat) (s : State) :
    (memReadOp a n s).trace =
      s.trace ++ [.memRd a (readLanes a n s)] := rfl
@[simp] theorem memReadOp_esLog (a n : Nat) (s : State) : (memReadOp a n s).esLog = s.esLog := rfl

/-! ## ramReadOp -/

@[simp] theorem ramReadOp_cfg (a : Word) (s : State) : (ramReadOp a s).cfg = s.cfg := rfl
@[simp] theorem ramReadOp_mode (a : Word) (s : State) : (ramReadOp a s).mode = s.mode := rfl
@[simp] theorem ramReadOp_initDone (a : Word) (s : State) : (ramReadOp a s).initDone = s.initDone := rfl
@[simp] theorem ramReadOp_estate (a : Word) (s : State) : (ramReadOp a s).estate = s.estate := rfl
@[simp] theorem ramReadOp_curOp (a : Word) (s : State) : (ramReadOp a s).curOp = s.curOp := rfl
@[simp] theorem ramReadOp_seq (a : Word) (s : State) : (ramReadOp a s).seq = s.seq := rfl
@[simp] theorem ramReadOp_spl (a : Word) (s : State) : (ramReadOp a s).spl = s.spl := rfl
@[simp] theorem ramReadOp_ers (a : Word) (s : State) : (ramReadOp a s).ers = s.ers := rfl
@[simp] theorem ramReadOp_cks (a : Word) (s : State) : (ramReadOp a s).cks = s.cks := rfl
@[simp] theorem ramReadOp_vfy (a : Word) (s : State) : (ramReadOp a s).vfy = s.vfy := rfl
@[simp] theorem ramReadOp_pol (a : Word) (s : State) : (ramReadOp a s).pol = s.pol := rfl
@[simp] theorem ramReadOp_rsp (a : Word) (s : State) : (ramReadOp a s).rsp = s.rsp := rfl
@[simp] theorem ramReadOp_dev (a : Word) (s : State) : (ramReadOp a s).dev = s.dev := rfl
@[simp] theorem ramReadOp_host (a : Word) (s : State) : (ramReadOp a s).host = s.host := rfl
@[simp] theorem ramReadOp_trace (a : Word) (s : State) :
    (ramReadOp a s).trace =
      s.trace ++ [.ramRd a (ramByte s.host.ram a)] := rfl
@[simp] theorem ramReadOp_esLog (a : Word) (s : State) : (ramReadOp a s).esLog = s.esLog := rfl

/-! ## checksumWord -/

@[simp] theorem checksumWord_cfg (s : State) : (checksumWord s).cfg = s.cfg := rfl
@[simp] theorem checksumWord_mode (s : State) : (checksumWord s).mode = s.mode := rfl
@[simp] theorem checksumWord_initDone (s : State) : (checksumWord s).initDone = s.initDone := rfl
@[simp] theorem checksumWord_estate (s : State) : (checksumWord s).estate = s.estate := rfl
@[simp] theorem checksumWord_curOp (s : State) : (checksumWord s).curOp = s.curOp := rfl
@[simp] theorem checksumWord_seq (s : State) : (checksumWord s).seq = s.seq := rfl
@[simp] theorem checksumWord_spl (s : State) : (checksumWord s).spl = s.spl := rfl
@[simp] theorem checksumWord_ers (s : State) : (checksumWord s).ers = s.ers := rfl
@[simp] theorem checksumWord_cks (s : State) :
    (checksumWord s).cks =
      addWord (readLanes (s.cks.waddr.toNat + s.cks.cnt) 4 s) s.cks := rfl
@[simp] theorem checksumWord_vfy (s : State) : (checksumWord s).vfy = s.vfy := rfl
@[simp] theorem checksumWord_pol (s : State) : (checksumWord s).pol = s.pol := rfl
@[simp] theorem checksumWord_rsp (s : State) : (checksumWord s).rsp = s.rsp := rfl
@[simp] theorem checksumWord_dev (s : State) : (checksumWord s).dev = { s.dev with tick := s.dev.tick + 1 } := rfl
@[simp] theorem checksumWord_host (s : State) : (checksumWord s).host = s.host := rfl
@[simp] theorem checksumWord_trace (s : State) :
    (checksumWord s).trace =
      s.trace ++ [.memRd (s.cks.waddr.toNat + s.cks.cnt) (readLanes (s.cks.waddr.toNat + s.cks.cnt) 4 s)] := rfl
@[simp] theorem checksumWord_esLog (s : State) : (checksumWord s).esLog = s.esLog := rfl

/-! ## advanceChunk -/

@[simp] theorem advanceChunk_cfg (s : State) : (advanceChunk s).cfg = s.cfg := rfl
@[simp] theorem advanceChunk_mode (s : State) : (advanceChunk s).mode = s.mode := rfl
@[simp] theorem advanceChunk_initDone (s : State) : (advanceChunk s).initDone = s.initDone := rfl
@[simp] theorem advanceChunk_estate (s : State) : (advanceChunk s).estate = s.estate := rfl
@[simp] theorem advanceChunk_curOp (s : State) : (advanceChunk s).curOp = s.curOp := rfl
@[simp] theorem advanceChunk_seq (s : State) : (advanceChunk s).seq = s.seq := rfl
@[simp] theorem advanceChunk_spl (s : State) :
    (advanceChunk s).spl =
      { cursor := s.spl.cursor + s.spl.chunk, remain := s.spl.remain - s.spl.chunk, chunk := nextChunk s.cfg.geom.pageSize (s.spl.remain - s.spl.chunk) } := rfl
@[simp] theorem advanceChunk_ers (s : State) : (advanceChunk s).ers = s.ers := rfl
@[simp] theorem advanceChunk_cks (s : State) : (advanceChunk s).cks = s.cks := rfl
@[simp] theorem advanceChunk_vfy (s : State) : (advanceChunk s).vfy = s.vfy := rfl
@[simp] theorem advanceChunk_pol (s : State) : (advanceChunk s).pol = s.pol := rfl
@[simp] theorem advanceChunk_rsp (s : State) : (advanceChunk s).rsp = s.rsp := rfl
@[simp] theorem advanceChunk_dev (s : State) : (advanceChunk s).dev = s.dev := rfl
@[simp] theorem advanceChunk_host (s : State) : (advanceChunk s).host = s.host := rfl
@[simp] theorem advanceChunk_trace (s : State) : (advanceChunk s).trace = s.trace := rfl
@[simp] theorem advanceChunk_esLog (s : State) : (advanceChunk s).esLog = s.esLog := rfl

/-! ## respond -/

@[simp] theorem respond_cfg (r : Response) (s : State) : (respond r s).cfg = s.cfg := by simp [respond]
@[simp] theorem respond_mode (r : Response) (s : State) : (respond r s).mode = s.mode := by simp [respond]
@[simp] theorem respond_initDone (r : Response) (s : State) : (respond r s).initDone = s.initDone := by simp [respond]
@[simp] theorem respond_estate (r : Response) (s : State) : (respond r s).estate = .idle := by simp [respond]
@[simp] theorem respond_curOp (r : Response) (s : State) : (respond r s).curOp = 0 := by simp [respond]
@[simp] theorem respond_seq (r : Response) (s : State) : (respond r s).seq = s.seq := by simp [respond]
@[simp] theorem respond_spl (r : Response) (s : State) : (respond r s).spl = s.spl := by simp [respond]
@[simp] theorem respond_ers (r : Response) (s : State) : (respond r s).ers = s.ers := by simp [respond]
@[simp] theorem respond_cks (r : Response) (s : State) : (respond r s).cks = s.cks := by simp [respond]
@[simp] theorem respond_vfy (r : Response) (s : State) : (respond r s).vfy = s.vfy := by simp [respond]
@[simp] theorem respond_pol (r : Response) (s : State) : (respond r s).pol = s.pol := by simp [respond]
@[simp] theorem respond_rsp (r : Response) (s : State) : (respond r s).rsp = r := by simp [respond]
@[simp] theorem respond_dev (r : Response) (s : State) : (respond r s).dev = s.dev := by simp [respond]
@[simp] theorem respond_host (r : Response) (s : State) : (respond r s).host = s.host := by simp [respond]
@[simp] theorem respond_trace (r : Response) (s : State) : (respond r s).trace = s.trace := by simp [respond]

/-! ## accept -/

@[simp] theorem accept_cfg (op : BitVec 4) (s : State) : (accept op s).cfg = s.cfg := by simp [accept]
@[simp] theorem accept_mode (op : BitVec 4) (s : State) : (accept op s).mode = s.mode := by simp [accept]
@[simp] theorem accept_initDone (op : BitVec 4) (s : State) : (accept op s).initDone = s.initDone := by simp [accept]
@[simp] theorem accept_estate (op : BitVec 4) (s : State) : (accept op s).estate = .idle := by simp [accept]
@[simp] theorem accept_curOp (op : BitVec 4) (s : State) : (accept op s).curOp = op := by simp [accept]
@[simp] theorem accept_seq (op : BitVec 4) (s : State) : (accept op s).seq = s.seq := by simp [accept]
@[simp] theorem accept_spl (op : BitVec 4) (s : State) : (accept op s).spl = s.spl := by simp [accept]
@[simp] theorem accept_ers (op : BitVec 4) (s : State) : (accept op s).ers = s.ers := by simp [accept]
@[simp] theorem accept_cks (op : BitVec 4) (s : State) : (accept op s).cks = s.cks := by simp [accept]
@[simp] theorem accept_vfy (op : BitVec 4) (s : State) : (accept op s).vfy = s.vfy := by simp [accept]
@[simp] theorem accept_pol (op : BitVec 4) (s : State) : (accept op s).pol = s.pol := by simp [accept]
@[simp] theorem accept_rsp (op : BitVec 4) (s : State) : (accept op s).rsp = s.rsp := by simp [accept]
@[simp] theorem accept_dev (op : BitVec 4) (s : State) : (accept op s).dev = s.dev := by simp [accept]
@[simp] theorem accept_host (op : BitVec 4) (s : State) : (accept op s).host = s.host := by simp [accept]
@[simp] theorem accept_trace (op : BitVec 4) (s : State) : (accept op s).trace = s.trace := by simp [accept]

/-! ## fail -/

@[simp] theorem fail_cfg (k : Status) (a : Word) (s : State) : (fail k a s).cfg = s.cfg := by simp [fail, respond]
@[simp] theorem fail_mode (k : Status) (a : Word) (s : State) : (fail k a s).mode = s.mode := by simp [fail, respond]
@[simp] theorem fail_initDone (k : Status) (a : Word) (s : State) : (fail k a s).initDone = s.initDone := by simp [fail, respond]
@[simp] theorem fail_estate (k : Status) (a : Word) (s : State) : (fail k a s).estate = .idle := by simp [fail, respond]
@[simp] theorem fail_curOp (k : Status) (a : Word) (s : State) : (fail k a s).curOp = 0 := by simp [fail, respond]
@[simp] theorem fail_seq (k : Status) (a : Word) (s : State) : (fail k a s).seq = s.seq := by simp [fail, respond]
@[simp] theorem fail_spl (k : Status) (a : Word) (s : State) : (fail k a s).spl = s.spl := by simp [fail, respond]
@[simp] theorem fail_ers (k : Status) (a : Word) (s : State) : (fail k a s).ers = s.ers := by simp [fail, respond]
@[simp] theorem fail_cks (k : Status) (a : Word) (s : State) : (fail k a s).cks = s.cks := by simp [fail, respond]
@[simp] theorem fail_vfy (k : Status) (a : Word) (s : State) : (fail k a s).vfy = s.vfy := by simp [fail, respond]
@[simp] theorem fail_pol (k : Status) (a : Word) (s : State) : (fail k a s).pol = s.pol := by simp [fail, respond]
@[simp] theorem fail_rsp (k : Status) (a : Word) (s : State) : (fail k a s).rsp = { Response.zero with status := k, errAddr := a } := by simp [fail, respond]
@[simp] theorem fail_dev (k : Status) (a : Word) (s : State) : (fail k a s).dev = s.dev := by simp [fail, respond]
@[simp] theorem fail_host (k : Status) (a : Word) (s : State) : (fail k a s).host = s.host := by simp [fail, respond]
@[simp] theorem fail_trace (k : Status) (a : Word) (s : State) : (fail k a s).trace = s.trace := by simp [fail, respond]

theorem respond_esLog (r : Response) (s : State) :
    (respond r s).esLog = if s.estate = .idle then s.esLog else s.esLog ++ [(s.estate, .idle)] := by
  unfold respond setEState; split <;> rfl

theorem accept_esLog (op : BitVec 4) (s : State) :
    (accept op s).esLog = if s.estate = .idle then s.esLog else s.esLog ++ [(s.estate, .idle)] := by
  unfold accept setEState; split <;> rfl

theorem fail_esLog (k : Status) (a : Word) (s : State) :
    (fail k a s).esLog =
      (if s.estate = .failed then s.esLog else s.esLog ++ [(s.estate, .failed)]) ++ [(.failed, .idle)] := by
  simp only [fail, respond_esLog, setEState_estate, setEState_esLog]
  rfl

/-! ## The environment's bookkeeping -/

@[simp] theorem consumeDraw_flash (d : Device) : (consumeDraw d).flash = d.flash := rfl
@[simp] theorem consumeDraw_inflight (d : Device) : (consumeDraw d).inflight = d.inflight := rfl
@[simp] theorem consumeDraw_busy (d : Device) : (consumeDraw d).busy = d.busy := rfl
@[simp] theorem consumeDraw_wel (d : Device) : (consumeDraw d).wel = d.wel := rfl
@[simp] theorem consumeDraw_ctrlMode (d : Device) : (consumeDraw d).ctrlMode = d.ctrlMode := rfl
@[simp] theorem consumeDraw_script (d : Device) : (consumeDraw d).script = d.script.tail := rfl
@[simp] theorem consumeDraw_epoch (d : Device) : (consumeDraw d).epoch = d.epoch := rfl
@[simp] theorem consumeDraw_tick (d : Device) : (consumeDraw d).tick = d.tick + 1 := rfl

@[simp] theorem disturb_flash (d : Device) : (disturb d).flash = d.flash := rfl
@[simp] theorem disturb_inflight (d : Device) : (disturb d).inflight = d.inflight.map forget := rfl
@[simp] theorem disturb_busy (d : Device) : (disturb d).busy = if d.busy = .idle then .idle else .unsure := rfl
@[simp] theorem disturb_wel (d : Device) : (disturb d).wel = d.wel := rfl
@[simp] theorem disturb_ctrlMode (d : Device) : (disturb d).ctrlMode = d.ctrlMode := rfl
@[simp] theorem disturb_script (d : Device) : (disturb d).script = d.script := rfl
@[simp] theorem disturb_epoch (d : Device) : (disturb d).epoch = d.epoch := rfl
@[simp] theorem disturb_tick (d : Device) : (disturb d).tick = d.tick := rfl

/-- No command is both accepted and ignored (R264). -/
theorem accepted_of_ignored {c : Cfg} {a : Answer} {runs : List (Nat × Nat)} {d : Device}
    (h : ignored c a runs d = true) : accepted c a runs d = false := by
  simp only [ignored, Bool.and_eq_true, beq_iff_eq] at h
  simp [accepted, h.2]

@[simp] theorem deviceSend_wel (c : Cfg) (a : Answer) (x : BusCmd) (d : Device) :
    (deviceSend c a x d).wel =
      if (commandRuns c x).any (fun runs => ignored c a runs d) then .clear else .unknown := by
  unfold deviceSend
  cases commandRuns c x with
  | none => rfl
  | some runs =>
    simp only [Option.any_some]
    by_cases hi : ignored c a runs d = true
    · have hw : d.wel = .clear := by simp_all [ignored]
      simp [hi, hw, accepted_of_ignored hi]
    · simp only [hi, if_false, Bool.false_eq_true]
      split_ifs <;> rfl
@[simp] theorem deviceSend_ctrlMode (c : Cfg) (a : Answer) (x : BusCmd) (d : Device) :
    (deviceSend c a x d).ctrlMode = d.ctrlMode := by
  unfold deviceSend; split <;> (try simp only) <;> (try split_ifs) <;> rfl
@[simp] theorem deviceSend_script (c : Cfg) (a : Answer) (x : BusCmd) (d : Device) :
    (deviceSend c a x d).script = d.script := by
  unfold deviceSend; split <;> (try simp only) <;> (try split_ifs) <;> rfl
@[simp] theorem deviceSend_tick (c : Cfg) (a : Answer) (x : BusCmd) (d : Device) :
    (deviceSend c a x d).tick = d.tick := by
  unfold deviceSend; split <;> (try simp only) <;> (try split_ifs) <;> rfl

@[simp] theorem devicePoll_flash (c : Cfg) (a : Answer) (p : PollSpec) (q : Poller) (d : Device) :
    (devicePoll c a p q d).flash = d.flash := by
  unfold devicePoll; cases a <;> simp only <;> split_ifs <;> rfl
@[simp] theorem devicePoll_wel (c : Cfg) (a : Answer) (p : PollSpec) (q : Poller) (d : Device) :
    (devicePoll c a p q d).wel = latchSeen c.cat q d.wel := by
  unfold devicePoll; cases a <;> simp only <;> split_ifs <;> rfl
@[simp] theorem devicePoll_ctrlMode (c : Cfg) (a : Answer) (p : PollSpec) (q : Poller) (d : Device) :
    (devicePoll c a p q d).ctrlMode = d.ctrlMode := by
  unfold devicePoll; cases a <;> simp only <;> split_ifs <;> rfl
@[simp] theorem devicePoll_script (c : Cfg) (a : Answer) (p : PollSpec) (q : Poller) (d : Device) :
    (devicePoll c a p q d).script = d.script := by
  unfold devicePoll; cases a <;> simp only <;> split_ifs <;> rfl
@[simp] theorem devicePoll_epoch (c : Cfg) (a : Answer) (p : PollSpec) (q : Poller) (d : Device) :
    (devicePoll c a p q d).epoch = d.epoch := by
  unfold devicePoll; cases a <;> simp only <;> split_ifs <;> rfl
@[simp] theorem devicePoll_tick (c : Cfg) (a : Answer) (p : PollSpec) (q : Poller) (d : Device) :
    (devicePoll c a p q d).tick = d.tick := by
  unfold devicePoll; cases a <;> simp only <;> split_ifs <;> rfl

end Sys2Proof.Machine
end

