-- ==== Sys2Proof/Laws/Memory.lean ====
section
/-! SUPPORT. Memory: what a fill reads as, that every memory operation keeps the canonical form, and what each reaction
of the device does to the flash bytes. -/

namespace Sys2Proof.Machine

/-! ## Reading after writing -/

theorem memFind_append (m n : List Host.Cell) (a : Nat) :
    memFind (m ++ n) a = (memFind m a).or (memFind n a) := by
  induction m with
  | nil => simp [memFind]
  | cons c m ih =>
    by_cases h : c.1 = a <;> simp [memFind, h, ih]

theorem memFind_none_of_forall_ne {m : List Host.Cell} {a : Nat} (h : ∀ c ∈ m, c.1 ≠ a) : memFind m a = none := by
  induction m with
  | nil => rfl
  | cons c m ih => simp_all [memFind]

theorem memFind_filter {p : Nat → Bool} (m : List Host.Cell) (a : Nat) :
    memFind (m.filter (fun c => p c.1)) a = if p a then memFind m a else none := by
  induction m with
  | nil => simp [memFind]
  | cons c m ih =>
    by_cases hc : p c.1 <;> by_cases h : c.1 = a <;> simp_all [memFind]

theorem memFind_cellsFrom (f : Nat → Byte) (n base a : Nat) :
    memFind (cellsFrom f base n) a = if base ≤ a ∧ a < base + n then some (f a) else none := by
  induction n generalizing base with
  | zero => simp [cellsFrom, memFind]
  | succ n ih =>
    by_cases h : base = a
    · subst h; simp [cellsFrom, memFind]
    · simp only [cellsFrom, memFind, h, if_false, ih]
      exact if_congr (by omega) rfl rfl

/-- A read after a fill: the byte written inside the span, the old one outside it. -/
@[simp] theorem memFind_memFill (m : List Host.Cell) (base n : Nat) (f : Nat → Byte) (a : Nat) :
    memFind (memFill m base n f) a = if base ≤ a ∧ a < base + n then some (f a) else memFind m a := by
  unfold memFill
  rw [memFind_append, memFind_append, memFind_cellsFrom,
    memFind_filter (p := fun x => decide (x < base)), memFind_filter (p := fun x => decide (base + n ≤ x))]
  by_cases h1 : a < base
  · have : ¬ (base ≤ a ∧ a < base + n) := by omega
    have h2 : ¬ base + n ≤ a := by omega
    simp [h1, this, h2]
  · by_cases h2 : base + n ≤ a
    · have : ¬ (base ≤ a ∧ a < base + n) := by omega
      simp [h1, this, h2]
    · have : base ≤ a ∧ a < base + n := by omega
      simp [h1, this]

@[simp] theorem memFind_memWrite (m : List Host.Cell) (x : Nat) (b : Byte) (a : Nat) :
    memFind (memWrite m x b) a = if x = a then some b else memFind m a := by
  rw [memWrite, memFind_memFill]
  exact if_congr (by omega) rfl rfl

@[simp] theorem storedByte_memFill (m : List Host.Cell) (base n : Nat) (f : Nat → Byte) (a : Nat) :
    storedByte (memFill m base n f) a = if base ≤ a ∧ a < base + n then f a else storedByte m a := by
  unfold storedByte
  rw [memFind_memFill]
  split <;> rfl

/-! ## The canonical form -/

theorem memWf_iff (m : List Host.Cell) : memWf m = true ↔ m.Pairwise (fun c d => c.1 < d.1) := by
  induction m with
  | nil => simp [memWf]
  | cons c m ih => simp [memWf, ih]

theorem mem_cellsFrom {f : Nat → Byte} {n base : Nat} {c : Host.Cell} (h : c ∈ cellsFrom f base n) :
    base ≤ c.1 ∧ c.1 < base + n := by
  induction n generalizing base with
  | zero => simp [cellsFrom] at h
  | succ n ih =>
    simp only [cellsFrom, List.mem_cons] at h
    obtain rfl | h := h
    · simp
    · have := ih h; omega

theorem pairwise_cellsFrom (f : Nat → Byte) (n base : Nat) :
    (cellsFrom f base n).Pairwise (fun c d => c.1 < d.1) := by
  induction n generalizing base with
  | zero => simp [cellsFrom]
  | succ n ih =>
    refine List.pairwise_cons.2 ⟨fun d hd => ?_, ih (base + 1)⟩
    have := mem_cellsFrom hd
    simp only; omega

/-- A fill keeps the canonical form. -/
theorem memWf_memFill {m : List Host.Cell} (h : memWf m = true) (base n : Nat) (f : Nat → Byte) :
    memWf (memFill m base n f) = true := by
  rw [memWf_iff] at h ⊢
  simp only [memFill, List.pairwise_append, List.mem_append, List.mem_filter, decide_eq_true_eq]
  refine ⟨⟨h.filter _, pairwise_cellsFrom f n base, fun a ha b hb => ?_⟩, h.filter _, ?_⟩
  · have := mem_cellsFrom hb; omega
  · rintro a (⟨_, ha⟩ | ha) b ⟨_, hb⟩
    · omega
    · have := mem_cellsFrom ha; omega

theorem memWf_memWrite {m : List Host.Cell} (h : memWf m = true) (a : Nat) (b : Byte) :
    memWf (memWrite m a b) = true := memWf_memFill h a 1 _

theorem memWf_ramStore {m : List Host.Cell} (h : memWf m = true) (buffer : List (Word × Byte)) :
    memWf (ramStore m buffer) = true := by
  induction buffer generalizing m with
  | nil => exact h
  | cons w buffer ih => exact ih (memWf_memWrite h _ _)

theorem ramInRange_memWrite {m : List Host.Cell} (h : ramInRange m = true) (a : Word) (b : Byte) :
    ramInRange (memWrite m a.toNat b) = true := by
  have ha := a.isLt
  simp only [ramInRange, List.all_eq_true, decide_eq_true_eq, memWrite, memFill, List.mem_append, List.mem_filter] at h ⊢
  rintro c ((⟨hc, _⟩ | hc) | ⟨hc, _⟩)
  · exact h c hc
  · have := mem_cellsFrom hc; omega
  · exact h c hc

theorem ramInRange_ramStore {m : List Host.Cell} (h : ramInRange m = true) (buffer : List (Word × Byte)) :
    ramInRange (ramStore m buffer) = true := by
  induction buffer generalizing m with
  | nil => exact h
  | cons w buffer ih => exact ih (ramInRange_memWrite h _ _)

theorem memWf_fillRuns {m : List Host.Cell} (h : memWf m = true) (runs : List (Nat × Nat)) (f : Nat → Byte) :
    memWf (fillRuns m runs f) = true := by
  induction runs with
  | nil => exact h
  | cons r runs ih => exact memWf_memFill ih _ _ _

theorem memWf_flashNow {d : Device} (h : memWf d.flash = true) : memWf (flashNow d) = true := by
  unfold flashNow
  induction d.inflight with
  | nil => exact h
  | cons op ops ih => exact memWf_fillRuns ih _ _

theorem memWf_deviceSend (c : Cfg) (a : Answer) (x : BusCmd) {d : Device} (h : memWf d.flash = true) :
    memWf (deviceSend c a x d).flash = true := by
  unfold deviceSend
  split
  · exact h
  · simp only
    split_ifs
    exacts [memWf_fillRuns (memWf_flashNow h) _ _, h, h, h]

/-! ## Flash bytes -/

/-- A read after writing some runs. -/
@[simp] theorem storedByte_fillRuns (m : List Host.Cell) (runs : List (Nat × Nat)) (f : Nat → Byte) (a : Nat) :
    storedByte (fillRuns m runs f) a = if inRuns runs a then f a else storedByte m a := by
  induction runs with
  | nil => simp [fillRuns, inRuns]
  | cons r runs ih =>
    rw [show fillRuns m (r :: runs) f = memFill (fillRuns m runs f) r.1 r.2 f from rfl, storedByte_memFill, ih]
    by_cases h : r.1 ≤ a ∧ a < r.1 + r.2
    · simp [inRuns, h]
    · have hb : (decide (r.1 ≤ a) && decide (a < r.1 + r.2)) = false := by simpa using h
      rw [if_neg h, inRuns, inRuns, List.any_cons, hb, Bool.false_or]

/-- What the device holds is what `flashByte` says. -/
@[simp] theorem storedByte_flashNow (d : Device) (a : Nat) : storedByte (flashNow d) a = flashByte d a := by
  unfold flashNow flashByte
  induction d.inflight with
  | nil => rfl
  | cons op ops ih =>
    rw [List.foldr_cons, storedByte_fillRuns, ih, List.find?_cons]
    cases h : inRuns op.runs a <;> simp [covers, h]

theorem flashByte_of_settled {d : Device} {a : Nat} (h : unsettled d a = false) :
    flashByte d a = storedByte d.flash a := by
  have : d.inflight.find? (fun op => covers op a) = none := by
    simp only [unsettled, List.any_eq_false] at h
    exact List.find?_eq_none.2 h
  simp [flashByte, this]

/-- The flash byte looks at the runs and epochs of the commands alone. -/
theorem flashByte_map {d e : Device} {g : InFlight → InFlight} (hf : e.flash = d.flash)
    (hi : e.inflight = d.inflight.map g) (hg : ∀ op, (g op).runs = op.runs ∧ (g op).epoch = op.epoch) (a : Nat) :
    flashByte e a = flashByte d a := by
  unfold flashByte
  rw [hf, hi]
  induction d.inflight with
  | nil => rfl
  | cons op ops ih =>
    rw [List.map_cons, List.find?_cons, List.find?_cons]
    have hc : covers (g op) a = covers op a := by simp [covers, (hg op).1]
    rw [hc]
    cases covers op a
    · exact ih
    · simp [(hg op).2]

theorem flashByte_congr {d e : Device} (hf : e.flash = d.flash) (hi : e.inflight = d.inflight) (a : Nat) :
    flashByte e a = flashByte d a := by simp [flashByte, hf, hi]

theorem windowByte_congr {cfg : Cfg} {d e : Device} {a : Nat} (hf : flashByte e a = flashByte d a)
    (he : e.epoch = d.epoch) : windowByte cfg e a = windowByte cfg d a := by simp [windowByte, hf, he]

@[simp] theorem flashByte_disturb (d : Device) (a : Nat) : flashByte (disturb d) a = flashByte d a :=
  flashByte_map (d := d) (e := disturb d) (g := forget) rfl rfl (fun _ => ⟨rfl, rfl⟩) a

@[simp] theorem flashByte_consumeDraw (d : Device) (a : Nat) : flashByte (consumeDraw d) a = flashByte d a := rfl

/-- What a poll does to the commands: it leaves them, drops those in execution, or makes their results unknown. -/
theorem devicePoll_inflight_cases (c : Cfg) (an : Answer) (p : PollSpec) (q : Poller) (d : Device) :
    (devicePoll c an p q d).inflight = d.inflight ∨
      (devicePoll c an p q d).inflight = d.inflight.filter (fun op => !op.known) ∨
      (devicePoll c an p q d).inflight = d.inflight.map forget := by
  unfold devicePoll
  cases an <;> simp only <;> split_ifs <;> first | exact .inl rfl | exact .inr (.inl rfl) | exact .inr (.inr rfl)

/-- A poll shows the result of a command in execution; every other byte keeps its value (R59). -/
theorem flashByte_devicePoll_of_settled (c : Cfg) (an : Answer) (p : PollSpec) (q : Poller) {d : Device} {a : Nat}
    (h : unsettled d a = false) : flashByte (devicePoll c an p q d) a = flashByte d a := by
  have hf : unsettled (devicePoll c an p q d) a = false := by
    simp only [unsettled, List.any_eq_false] at h ⊢
    obtain hi | hi | hi := devicePoll_inflight_cases c an p q d <;> rw [hi]
    · exact h
    · exact fun op hop => h op (List.mem_filter.1 hop).1
    · intro x hx
      obtain ⟨op, hop, rfl⟩ := List.mem_map.1 hx
      exact h op hop
  rw [flashByte_of_settled hf, flashByte_of_settled h, devicePoll_flash]

/-- With no command in execution, a poll changes no flash byte. -/
theorem flashByte_devicePoll_of_quiet (c : Cfg) (an : Answer) (p : PollSpec) (q : Poller) {d : Device} (h : d.quiet = true)
    (a : Nat) : flashByte (devicePoll c an p q d) a = flashByte d a := by
  have hq : d.inflight.filter (fun op => !op.known) = d.inflight := by
    rw [List.filter_eq_self]; simpa [Device.quiet] using h
  have hf := devicePoll_flash c an p q d
  obtain hi | hi | hi := devicePoll_inflight_cases c an p q d
  · exact flashByte_congr hf hi a
  · exact flashByte_congr hf (hi.trans hq) a
  · exact flashByte_map (g := forget) hf hi (fun _ => ⟨rfl, rfl⟩) a

/-- A command that changes no flash leaves every byte (R34). -/
theorem flashByte_deviceSend_of_none {c : Cfg} {x : BusCmd} (h : commandRuns c x = none) (an : Answer) (d : Device)
    (a : Nat) : flashByte (deviceSend c an x d) a = flashByte d a := by
  have e : deviceSend c an x d = { disturb d with wel := .unknown } := by unfold deviceSend; rw [h]
  rw [e]
  exact flashByte_disturb d a

/-- A program or erase that the device ignores is counted, and changes nothing else (R264). -/
theorem deviceSend_of_ignored {c : Cfg} {an : Answer} {x : BusCmd} {d : Device} {runs : List (Nat × Nat)}
    (hr : commandRuns c x = some runs) (h : ignored c an runs d = true) :
    deviceSend c an x d = { d with epoch := d.epoch + 1 } := by
  simp [deviceSend, hr, h, accepted_of_ignored h]

/-- An accepted program or erase that a WIP wait answered OK then shows complete leaves its result in its span and
every other byte as it was (R151, R169, R67). -/
theorem flashByte_accepted {c : Cfg} {an : Answer} {x : BusCmd} {d : Device} {runs : List (Nat × Nat)}
    (hr : commandRuns c x = some runs) (h : accepted c an runs d = true) {p : PollSpec} (hp : isWipWait c p = true) (q : Poller)
    {g : Device → Device} (hf : ∀ e, (g e).flash = e.flash) (hi : ∀ e, (g e).inflight = e.inflight) (a : Nat) :
    flashByte (devicePoll c .ok p q (g (deviceSend c an x d))) a =
      if inRuns (spanOf c runs) a then resultByte c x (d.epoch + 1) (flashNow d) a else flashByte d a := by
  have e1 : deviceSend c an x d =
      { d with
        flash := fillRuns (flashNow d) (spanOf c runs) (resultByte c x (d.epoch + 1) (flashNow d))
        inflight := [{ runs := spanOf c runs, epoch := d.epoch + 1, known := true }]
        busy := .executing
        wel := .unknown
        epoch := d.epoch + 1 } := by
    unfold deviceSend; rw [hr]; simp only [h, if_true]
  have e2 : (devicePoll c .ok p q (g (deviceSend c an x d))).inflight = [] := by
    unfold devicePoll
    simp only [if_true, hp]
    simp [hi, e1]
  have e3 : unsettled (devicePoll c .ok p q (g (deviceSend c an x d))) a = false := by simp [unsettled, e2]
  rw [flashByte_of_settled e3, devicePoll_flash, hf, e1]
  simp

/-- A byte that no command covers and this one does not may keep its value only. -/
theorem flashByte_deviceSend_of_uncovered {c : Cfg} {x : BusCmd} {d : Device} {a : Nat} (an : Answer)
    (hu : unsettled d a = false) (hx : ∀ runs, commandSpan c x = some runs → inRuns runs a = false) :
    flashByte (deviceSend c an x d) a = flashByte d a ∧ unsettled (deviceSend c an x d) a = false := by
  cases hr : commandRuns c x with
  | none =>
    refine ⟨flashByte_deviceSend_of_none hr an d a, ?_⟩
    unfold deviceSend
    rw [hr]
    simpa only [unsettled, disturb, covers, forget, List.any_map, Function.comp_def] using hu
  | some runs =>
    have hs : inRuns (spanOf c runs) a = false := hx _ (by simp [commandSpan, hr])
    have hu' : unsettled (deviceSend c an x d) a = false := by
      unfold deviceSend
      rw [hr]
      simp only
      split_ifs
      · simp only [unsettled, covers, List.any_cons, List.any_nil, hs, Bool.or_false]
      · exact hu
      all_goals
        simp only [unsettled, covers, List.any_cons, hs, Bool.false_or]
        simpa only [unsettled, covers, forget, List.any_map, Function.comp_def] using hu
    refine ⟨?_, hu'⟩
    rw [flashByte_of_settled hu']
    unfold deviceSend
    rw [hr]
    simp only
    split_ifs <;> first | exact (flashByte_of_settled hu).symm | simp [hs]

end Sys2Proof.Machine
end

