-- ==== Sys2Proof/Laws/Ops.lean ====
section
/-! SUPPORT. Inversion of the shared operations: what an answer, a mode toggle, an elementary command, a refusal
check can do, each said once. -/

namespace Sys2Proof.Machine

/-! ## Runs -/

@[simp] theorem andThen_going (s : State) (f : State → Run) : andThen (.going s) f = f s := rfl
@[simp] theorem andThen_ended (s : State) (f : State → Run) : andThen (.ended s) f = .ended s := rfl
@[simp] theorem finish_going (s : State) (f : State → State) : finish (.going s) f = f s := rfl
@[simp] theorem finish_ended (s : State) (f : State → State) : finish (.ended s) f = s := rfl

theorem andThen_eq_going {r : Run} {f : State → Run} {t : State} :
    andThen r f = .going t ↔ ∃ s, r = .going s ∧ f s = .going t := by
  cases r <;> simp [andThen]

theorem andThen_eq_ended {r : Run} {f : State → Run} {t : State} :
    andThen r f = .ended t ↔ r = .ended t ∨ ∃ s, r = .going s ∧ f s = .ended t := by
  cases r <;> simp [andThen]

/-! ## Answers -/

theorem orFail_eq (ea : Word) (s : State) :
    orFail ea s = if s.seq.ret = .ok then .going s else .ended (fail (statusOf s.seq.ret) ea s) := rfl

theorem orFail_cases (ea : Word) (s : State) :
    (s.seq.ret = .ok ∧ orFail ea s = .going s) ∨
      (s.seq.ret ≠ .ok ∧ orFail ea s = .ended (fail (statusOf s.seq.ret) ea s)) := by
  by_cases h : s.seq.ret = .ok <;> simp [orFail_eq, h]

theorem orInitError_cases (s : State) :
    (s.seq.ret = .ok ∧ orInitError s = .going s) ∨
      (s.seq.ret ≠ .ok ∧ orInitError s = .ended (fail .initError 0 s)) := by
  by_cases h : s.seq.ret = .ok <;> simp [orInitError, h]

@[simp] theorem callAnswer_ne_timedOut (x : Draw) : callAnswer x ≠ .timedOut := by
  unfold callAnswer; split <;> simp

theorem callAnswer_eq_ok (x : Draw) : callAnswer x = .ok ↔ x.busErrorAfter = none := by
  unfold callAnswer; cases x.busErrorAfter <;> simp

@[simp] theorem nextDraw_cons (d : Device) (x : Draw) (xs : List Draw) (h : d.script = x :: xs) : nextDraw d = x := by
  simp [nextDraw, h]

/-! ## The poll loop -/

theorem pollLoop_keeps_spec (d : Draw) (tick n : Nat) (p : Poller) :
    (pollLoop d tick n p).2.mask = p.mask ∧ (pollLoop d tick n p).2.value = p.value ∧
      (pollLoop d tick n p).2.interval = p.interval ∧ (pollLoop d tick n p).2.timeout = p.timeout := by
  induction n generalizing p with
  | zero => simp [pollLoop]
  | succ n ih =>
    unfold pollLoop
    simp only
    split_ifs
    · simp
    · simp [takeSample]
    · simpa [takeSample] using ih (takeSample (statusSample d tick p.count) p)

theorem pollLoop_count (d : Draw) (tick n : Nat) (p : Poller) :
    p.count ≤ (pollLoop d tick n p).2.count ∧ (pollLoop d tick n p).2.count ≤ p.count + n := by
  induction n generalizing p with
  | zero => simp [pollLoop]
  | succ n ih =>
    unfold pollLoop
    simp only
    split_ifs
    · simp
    · simp [takeSample]
    · have := ih (takeSample (statusSample d tick p.count) p)
      simp only [takeSample] at this ⊢
      omega

/-- With no BUS_ERROR drawn and a listed sample that hits within the budget, a poll answers OK. -/
theorem pollLoop_ok_of_hit (d : Draw) (tick : Nat) (hb : d.busErrorAfter = none) (n : Nat) (p : Poller)
    (h : ∃ k b, k < n ∧ d.samples[p.count + k]? = some b ∧ comparator b p.mask p.value = true) :
    (pollLoop d tick n p).1 = .ok := by
  induction n generalizing p with
  | zero => obtain ⟨k, _, hk, _⟩ := h; omega
  | succ n ih =>
    obtain ⟨k, b, hk, hs, hc⟩ := h
    unfold pollLoop
    simp only [hb, reduceCtorEq, if_false]
    split_ifs with hh
    · rfl
    · cases k with
      | zero =>
        simp only [Nat.add_zero] at hs
        simp [takeSample, statusSample, List.getD, hs, hc] at hh
      | succ k =>
        refine ih _ ⟨k, b, by omega, ?_, hc⟩
        have e : p.count + 1 + k = p.count + (k + 1) := by omega
        simpa [takeSample, e] using hs

theorem runPoll_ok_of_obliges {spec : PollSpec} {d : Draw} (h : drawObliges (.poll spec) d = true) (tick : Nat)
    (p : Poller) : (runPoll d tick spec p).1 = .ok := by
  simp only [drawObliges, Bool.and_eq_true, beq_iff_eq, List.any_eq_true] at h
  obtain ⟨hb, b, hmem, hc⟩ := h
  obtain ⟨k, hk, rfl⟩ := List.getElem_of_mem hmem
  simp only [List.length_take, Nat.lt_min] at hk
  refine pollLoop_ok_of_hit d tick hb _ _ ⟨k, _, hk.1, ?_, hc⟩
  simp [loadSpec, List.getElem?_eq_getElem hk.2]

/-- A poll answered OK took a sample, and its last one hits. -/
theorem pollLoop_ok_sample {d : Draw} {tick n : Nat} {p : Poller} (h : (pollLoop d tick n p).1 = .ok) :
    (pollLoop d tick n p).2.count ≠ 0 ∧ comparator (pollLoop d tick n p).2.sample p.mask p.value = true := by
  induction n generalizing p with
  | zero => simp [pollLoop] at h
  | succ n ih =>
    unfold pollLoop at h ⊢
    simp only at h ⊢
    split_ifs at h ⊢ with hb hh
    · exact ⟨Nat.succ_ne_zero _, hh⟩
    · exact ih h

/-- A write-enable-latch wait answered OK has seen the latch set (R134, R264). -/
theorem latchSeen_of_welWait {cat : Catalog} {d : Draw} {tick : Nat} {p : Poller} (known : Latch)
    (h : (runPoll d tick (welWait cat) p).1 = .ok) : latchSeen cat (runPoll d tick (welWait cat) p).2 known = .set := by
  obtain ⟨hc, hs⟩ := pollLoop_ok_sample h
  exact (if_neg hc).trans (if_pos hs)

/-! ## The mode toggle -/

theorem ensureIndirect_cases (ea : Word) (s : State) :
    (s.mode = .indirect ∧ ensureIndirect ea s = .going s) ∨
      (s.mode = .mapped ∧ callAnswer (nextDraw s.dev) = .ok ∧ ensureIndirect ea s = .going (abortOp s)) ∨
      (s.mode = .mapped ∧ callAnswer (nextDraw s.dev) = .busError ∧
        ensureIndirect ea s = .ended (fail .busError ea (abortOp s))) := by
  unfold ensureIndirect
  rw [orFail_eq]
  have := callAnswer_ne_timedOut (nextDraw s.dev)
  cases hm : s.mode <;> cases ha : callAnswer (nextDraw s.dev) <;> simp_all [statusOf]

theorem ensureMapped_cases (ea : Word) (s : State) :
    (s.mode = .mapped ∧ ensureMapped ea s = .going s) ∨
      (s.mode = .indirect ∧ callAnswer (nextDraw s.dev) = .ok ∧ ensureMapped ea s = .going (mapOp s)) ∨
      (s.mode = .indirect ∧ callAnswer (nextDraw s.dev) = .busError ∧
        ensureMapped ea s = .ended (fail .busError ea (mapOp s))) := by
  unfold ensureMapped
  rw [orFail_eq]
  have := callAnswer_ne_timedOut (nextDraw s.dev)
  cases hm : s.mode <;> cases ha : callAnswer (nextDraw s.dev) <;> simp_all [statusOf]

/-! ## The elementary command, line by line -/

/-- The states WCMD passes through (R135), each after its call. -/
def wcmdSent (s : State) : State := sendOp (encodeOp .writeEnable 0 [] s)
def wcmdEnabled (s : State) : State := pollOp (welWait s.cfg.cat) (setEState .welPending (wcmdSent s))
def wcmdIssued (k : Kind) (a : Nat) (payload : List Byte) (s : State) : State :=
  sendOp (encodeOp k a payload (setEState .cmdIssued (wcmdEnabled s)))
def wcmdDone (k : Kind) (a : Nat) (payload : List Byte) (t : Word) (s : State) : State :=
  pollOp (wipWait s.cfg.cat t) (setEState .busyPolling (wcmdIssued k a payload s))

/-- `raise Fail(r, ea)` with the answer the last call gave (R137). -/
def failLast (ea : Word) (s : State) : State := fail (statusOf s.seq.ret) ea s

/-- WCMD stops at the first call that is not answered OK, or returns to IDLE (R135, R137). -/
theorem wcmd_cases (k : Kind) (a : Nat) (payload : List Byte) (t ea : Word) (s : State) :
    ((wcmdSent s).seq.ret ≠ .ok ∧ wcmd k a payload t ea s = .ended (failLast ea (wcmdSent s))) ∨
    ((wcmdSent s).seq.ret = .ok ∧ (wcmdEnabled s).seq.ret ≠ .ok ∧
      wcmd k a payload t ea s = .ended (failLast ea (wcmdEnabled s))) ∨
    ((wcmdSent s).seq.ret = .ok ∧ (wcmdEnabled s).seq.ret = .ok ∧ (wcmdIssued k a payload s).seq.ret ≠ .ok ∧
      wcmd k a payload t ea s = .ended (failLast ea (wcmdIssued k a payload s))) ∨
    ((wcmdSent s).seq.ret = .ok ∧ (wcmdEnabled s).seq.ret = .ok ∧ (wcmdIssued k a payload s).seq.ret = .ok ∧
      (wcmdDone k a payload t s).seq.ret ≠ .ok ∧
      wcmd k a payload t ea s = .ended (failLast ea (wcmdDone k a payload t s))) ∨
    ((wcmdSent s).seq.ret = .ok ∧ (wcmdEnabled s).seq.ret = .ok ∧ (wcmdIssued k a payload s).seq.ret = .ok ∧
      (wcmdDone k a payload t s).seq.ret = .ok ∧
      wcmd k a payload t ea s = .going (setEState .idle (wcmdDone k a payload t s))) := by
  have e1 : wcmd k a payload t ea s =
      andThen (orFail ea (wcmdSent s)) fun _ => andThen (orFail ea (wcmdEnabled s)) fun _ =>
      andThen (orFail ea (wcmdIssued k a payload s)) fun _ =>
      andThen (orFail ea (wcmdDone k a payload t s)) fun s => .going (setEState .idle s) := by
    unfold wcmd
    rw [show sendOp (encodeOp .writeEnable 0 [] s) = wcmdSent s from rfl]
    obtain ⟨h1, g1⟩ | ⟨h1, g1⟩ := orFail_cases ea (wcmdSent s) <;> rw [g1] <;> simp only [andThen_going, andThen_ended]
    rw [show pollOp (welWait (wcmdSent s).cfg.cat) (setEState .welPending (wcmdSent s)) = wcmdEnabled s from rfl]
    obtain ⟨h2, g2⟩ | ⟨h2, g2⟩ := orFail_cases ea (wcmdEnabled s) <;> rw [g2] <;>
      simp only [andThen_going, andThen_ended]
    rw [show sendOp (encodeOp k a payload (setEState .cmdIssued (wcmdEnabled s))) = wcmdIssued k a payload s from rfl]
    obtain ⟨h3, g3⟩ | ⟨h3, g3⟩ := orFail_cases ea (wcmdIssued k a payload s) <;> rw [g3] <;>
      simp only [andThen_going, andThen_ended]
    have hc : (wcmdIssued k a payload s).cfg = s.cfg := by simp [wcmdIssued, wcmdEnabled, wcmdSent]
    rw [hc]
    rfl
  rw [e1]
  by_cases h1 : (wcmdSent s).seq.ret = .ok <;> by_cases h2 : (wcmdEnabled s).seq.ret = .ok <;>
    by_cases h3 : (wcmdIssued k a payload s).seq.ret = .ok <;>
    by_cases h4 : (wcmdDone k a payload t s).seq.ret = .ok <;>
    simp [orFail_eq, failLast, h1, h2, h3, h4]

/-! ## Requests and lines -/

theorem requestRefusal_eq_none {needsInit : Bool} {extent : Nat} {s : State} :
    requestRefusal needsInit extent s = none ↔
      s.cfg.wf = true ∧ (needsInit = true → s.initDone = true) ∧ extent ≤ 2 ^ 32 - 1 := by
  unfold requestRefusal
  cases s.cfg.wf <;> cases needsInit <;> cases s.initDone <;> simp

theorem runRequest_eq_next {op : BitVec 4} {needsInit : Bool} {extent : Nat} {body : State → State} {s t : State} :
    runRequest op needsInit extent body s = .next t ↔
      requestRefusal needsInit extent s = none ∧ t = body (accept op s) := by
  unfold runRequest
  cases requestRefusal needsInit extent s <;> simp [eq_comm]

theorem runLine_eq_next {refusal : Option Refusal} {body : State → State} {s t : State} :
    runLine refusal body s = .next t ↔ s.cfg.wf = true ∧ refusal = none ∧ t = body s := by
  unfold runLine
  cases s.cfg.wf <;> cases refusal <;> simp [eq_comm]

end Sys2Proof.Machine
end

