-- ==== Sys2Proof/Laws/PerInstr.lean ====
section
/-! SUPPORT. Statements made of every instruction as syntax, one lemma per constructor. -/

namespace Sys2Proof.Laws.RecordShape

open Sys2Proof Sys2Proof.Machine

/-- The record an instruction is encoded as stands in its opcode space (R93), has that format's words (R76, R82,
R84, R85), and only a PAGE_PROGRAM carries a payload (R101). -/
def Statement (i : Instr) : Prop :=
  ∀ cat : Catalog, (encode cat i).format = formatOf i ∧
    (formatOf i = .hostReq → (encode cat i).words.length = 5) ∧
    (formatOf i = .busCmd → (encode cat i).words.length = 4) ∧
    (formatOf i = .xcall →
      (encode cat i).words.length = 1 ∨ (encode cat i).words.length = 5 ∨ (encode cat i).words.length = 8) ∧
    ((∀ offset payload, i ≠ .pageProgram offset payload) → (encode cat i).payload = [])

theorem init : Statement .init := fun _ => ⟨rfl, by simp [encode], by simp [formatOf], by simp [formatOf], fun _ => rfl⟩

theorem program (start length buf : Word) : Statement (.program start length buf) := fun _ =>
  ⟨rfl, by simp [encode], by simp [formatOf], by simp [formatOf], fun _ => rfl⟩

theorem eraseRange (start length : Word) : Statement (.eraseRange start length) := fun _ =>
  ⟨rfl, by simp [encode], by simp [formatOf], by simp [formatOf], fun _ => rfl⟩

theorem eraseAll : Statement .eraseAll := fun _ =>
  ⟨rfl, by simp [encode], by simp [formatOf], by simp [formatOf], fun _ => rfl⟩

theorem checksum (start length seed : Word) : Statement (.checksum start length seed) := fun _ =>
  ⟨rfl, by simp [encode], by simp [formatOf], by simp [formatOf], fun _ => rfl⟩

theorem verify (start length seed buf : Word) : Statement (.verify start length seed buf) := fun _ =>
  ⟨rfl, by simp [encode], by simp [formatOf], by simp [formatOf], fun _ => rfl⟩

theorem resetEnable : Statement .resetEnable := fun _ =>
  ⟨rfl, by simp [formatOf], by simp [encode, cmdRecord], by simp [formatOf], fun _ => rfl⟩

theorem reset : Statement .reset := fun _ =>
  ⟨rfl, by simp [formatOf], by simp [encode, cmdRecord], by simp [formatOf], fun _ => rfl⟩

theorem writeEnable : Statement .writeEnable := fun _ =>
  ⟨rfl, by simp [formatOf], by simp [encode, cmdRecord], by simp [formatOf], fun _ => rfl⟩

theorem readStatus : Statement .readStatus := fun _ =>
  ⟨rfl, by simp [formatOf], by simp [encode, cmdRecord], by simp [formatOf], fun _ => rfl⟩

theorem pageProgram (offset : Word) (payload : List Byte) : Statement (.pageProgram offset payload) := fun _ =>
  ⟨rfl, by simp [formatOf], by simp [encode, cmdRecord], by simp [formatOf], fun h => absurd rfl (h offset payload)⟩

theorem sectorErase (offset : Word) : Statement (.sectorErase offset) := fun _ =>
  ⟨rfl, by simp [formatOf], by simp [encode, cmdRecord], by simp [formatOf], fun _ => rfl⟩

theorem chipErase : Statement .chipErase := fun _ =>
  ⟨rfl, by simp [formatOf], by simp [encode, cmdRecord], by simp [formatOf], fun _ => rfl⟩

theorem quadRead : Statement .quadRead := fun _ =>
  ⟨rfl, by simp [formatOf], by simp [encode, cmdRecord], by simp [formatOf], fun _ => rfl⟩

theorem enter4Byte : Statement .enter4Byte := fun _ =>
  ⟨rfl, by simp [formatOf], by simp [encode, cmdRecord], by simp [formatOf], fun _ => rfl⟩

theorem send : Statement .send := fun _ =>
  ⟨rfl, by simp [formatOf], by simp [formatOf], fun _ => .inl rfl, fun _ => rfl⟩

theorem poll (spec : PollSpec) : Statement (.poll spec) := fun _ =>
  ⟨rfl, by simp [formatOf], by simp [formatOf], fun _ => .inr (.inr rfl), fun _ => rfl⟩

theorem map : Statement .map := fun _ =>
  ⟨rfl, by simp [formatOf], by simp [formatOf], fun _ => .inr (.inl rfl), fun _ => rfl⟩

theorem abort : Statement .abort := fun _ =>
  ⟨rfl, by simp [formatOf], by simp [formatOf], fun _ => .inl rfl, fun _ => rfl⟩

end Sys2Proof.Laws.RecordShape
end

