-- ==== Sys2Proof/Laws/Steps.lean ====
section
/-! SUPPORT. Every instruction is a sequence of six bus primitives and register writes. An invariant of all
instructions needs one case per primitive, by induction on `Steps`. -/

namespace Sys2Proof.Machine

/-- One primitive: a call, a read, or a write of block registers, which leaves the configuration, MODE, the
comparator's registers, the environment, the host and the bus trace as they are. INIT_DONE is written only where
`mayInit` is true. -/
inductive Prim (mayInit : Bool) : State → State → Prop where
  | send (s : State) : Prim mayInit s (sendOp s)
  | poll (spec : PollSpec) (s : State) : Prim mayInit s (pollOp spec s)
  | map (s : State) : Prim mayInit s (mapOp s)
  | abort (s : State) : Prim mayInit s (abortOp s)
  | memRead (a n : Nat) (s : State) : Prim mayInit s (memReadOp a n s)
  | ramRead (a : Word) (s : State) : Prim mayInit s (ramReadOp a s)
  | regs (s t : State) (cfg : t.cfg = s.cfg) (mode : t.mode = s.mode) (pol : t.pol = s.pol) (dev : t.dev = s.dev)
      (host : t.host = s.host) (trace : t.trace = s.trace) (pos : t.seq.pos = s.seq.pos)
      (initDone : mayInit = false → t.initDone = s.initDone) : Prim mayInit s t

/-- Some primitives, one after the other. -/
abbrev Steps (mayInit : Bool) : State → State → Prop := Relation.ReflTransGen (Prim mayInit)

/-- The state of a run. -/
def runState : Run → State
  | .going s => s
  | .ended s => s

variable {b : Bool}

theorem Steps.one {s t : State} (h : Prim b s t) : Steps b s t := .single h

theorem Steps.trans {s t u : State} (h : Steps b s t) (k : Steps b t u) : Steps b s u :=
  Relation.ReflTransGen.trans h k

theorem steps_encodeOp (k : Kind) (a : Nat) (p : List Byte) (s : State) : Steps b s (encodeOp k a p s) :=
  Steps.one (.regs _ _ rfl rfl rfl rfl rfl rfl rfl fun _ => rfl)

theorem steps_setEState (e : EState) (s : State) : Steps b s (setEState e s) := by
  refine Steps.one (.regs _ _ ?_ ?_ ?_ ?_ ?_ ?_ ?_ ?_) <;> simp

theorem steps_respond (r : Response) (s : State) : Steps b s (respond r s) := by
  refine Steps.one (.regs _ _ ?_ ?_ ?_ ?_ ?_ ?_ ?_ ?_) <;> simp

theorem steps_fail (k : Status) (a : Word) (s : State) : Steps b s (fail k a s) := by
  refine Steps.one (.regs _ _ ?_ ?_ ?_ ?_ ?_ ?_ ?_ ?_) <;> simp

theorem steps_accept (op : BitVec 4) (s : State) : Steps b s (accept op s) := by
  refine Steps.one (.regs _ _ ?_ ?_ ?_ ?_ ?_ ?_ ?_ ?_) <;> simp

theorem steps_andThen {s : State} {r : Run} {f : State → Run} (hr : Steps b s (runState r))
    (hf : ∀ t, Steps b t (runState (f t))) : Steps b s (runState (andThen r f)) := by
  cases r with
  | going t => exact hr.trans (hf t)
  | ended t => exact hr

theorem steps_finish {s : State} {r : Run} {f : State → State} (hr : Steps b s (runState r))
    (hf : ∀ t, Steps b t (f t)) : Steps b s (finish r f) := by
  cases r with
  | going t => exact hr.trans (hf t)
  | ended t => exact hr

theorem steps_orFail {s t : State} (h : Steps b s t) (ea : Word) : Steps b s (runState (orFail ea t)) := by
  obtain ⟨_, e⟩ | ⟨_, e⟩ := orFail_cases ea t <;> rw [e]
  · exact h
  · exact h.trans (steps_fail _ _ _)

theorem steps_orInitError {s t : State} (h : Steps b s t) : Steps b s (runState (orInitError t)) := by
  obtain ⟨_, e⟩ | ⟨_, e⟩ := orInitError_cases t <;> rw [e]
  · exact h
  · exact h.trans (steps_fail _ _ _)

theorem steps_ensureIndirect (ea : Word) (s : State) : Steps b s (runState (ensureIndirect ea s)) := by
  unfold ensureIndirect
  split_ifs
  · exact steps_orFail (Steps.one (.abort _)) _
  · exact .refl

theorem steps_ensureMapped (ea : Word) (s : State) : Steps b s (runState (ensureMapped ea s)) := by
  unfold ensureMapped
  split_ifs
  · exact steps_orFail (Steps.one (.map _)) _
  · exact .refl

theorem steps_wcmd (k : Kind) (a : Nat) (payload : List Byte) (t ea : Word) (s : State) :
    Steps b s (runState (wcmd k a payload t ea s)) := by
  refine steps_andThen (steps_orFail ((steps_encodeOp _ _ _ _).trans (Steps.one (.send _))) _) fun _ => ?_
  refine steps_andThen (steps_orFail ((steps_setEState _ _).trans (Steps.one (.poll _ _))) _) fun _ => ?_
  refine steps_andThen (steps_orFail (((steps_setEState _ _).trans (steps_encodeOp _ _ _ _)).trans (Steps.one (.send _))) _)
    fun _ => ?_
  refine steps_andThen (steps_orFail ((steps_setEState _ _).trans (Steps.one (.poll _ _))) _) fun _ => ?_
  exact steps_setEState _ _

/-! ## Requests -/

theorem steps_initSend (k : Kind) (s : State) : Steps b s (runState (initSend k s)) :=
  steps_orInitError ((steps_encodeOp _ _ _ _).trans (Steps.one (.send _)))

theorem steps_initBody (s : State) : Steps true s (initBody s) := by
  have h0 : Steps true s { s with initDone := false } := Steps.one (.regs _ _ rfl rfl rfl rfl rfl rfl rfl (by simp))
  refine h0.trans (steps_finish ?_ fun t => ?_)
  · refine steps_andThen ?_ fun _ => steps_andThen ?_ fun _ => steps_andThen (steps_initSend _ _) fun _ =>
      steps_andThen (steps_orInitError (Steps.one (.poll _ _))) fun _ => steps_andThen ?_ fun _ => ?_
    · split_ifs
      · exact steps_orInitError (Steps.one (.abort _))
      · exact .refl
    · split_ifs
      · exact steps_initSend _ _
      · exact .refl
    · split_ifs
      · exact steps_initSend _ _
      · exact .refl
    · split_ifs
      · exact steps_orInitError (Steps.one (.map _))
      · exact .refl
  · refine Steps.one (.regs _ _ ?_ ?_ ?_ ?_ ?_ ?_ ?_ ?_) <;> simp

theorem steps_readPayload (n : Nat) (a : Word) (s : State) : Steps b s (readPayload n a s).2 := by
  induction n generalizing a s with
  | zero => exact .refl
  | succ n ih => exact (Steps.one (.ramRead _ _)).trans (ih _ _)

theorem steps_programChunk (start buf : Word) (s : State) : Steps b s (runState (programChunk start buf s)) := by
  refine steps_andThen ((steps_readPayload _ _ _).trans (steps_wcmd _ _ _ _ _ _)) fun t => ?_
  exact Steps.one (.regs _ _ rfl rfl rfl rfl rfl rfl rfl fun _ => rfl)

theorem steps_programLoop (start buf : Word) (n : Nat) (s : State) :
    Steps b s (runState (programLoop start buf n s)) := by
  induction n generalizing s with
  | zero => exact .refl
  | succ n ih =>
    unfold programLoop
    split_ifs
    · exact .refl
    · exact steps_andThen (steps_programChunk _ _ _) ih

theorem steps_programBody (start length buf : Word) (s : State) : Steps b s (programBody start length buf s) := by
  unfold programBody
  split_ifs
  · exact steps_respond _ _
  · refine steps_finish (steps_andThen (steps_ensureIndirect _ _) fun t => ?_) (steps_respond _)
    refine Steps.trans ?_ (steps_programLoop _ _ _ _)
    exact Steps.one (.regs _ _ rfl rfl rfl rfl rfl rfl rfl fun _ => rfl)

theorem steps_eraseSector (s : State) : Steps b s (runState (eraseSector s)) := by
  refine steps_andThen (steps_wcmd _ _ _ _ _ _) fun t => ?_
  exact Steps.one (.regs _ _ rfl rfl rfl rfl rfl rfl rfl fun _ => rfl)

theorem steps_eraseLoop (n : Nat) (s : State) : Steps b s (runState (eraseLoop n s)) := by
  induction n generalizing s with
  | zero => exact .refl
  | succ n ih =>
    unfold eraseLoop
    split_ifs
    · exact steps_andThen (steps_eraseSector _) ih
    · exact .refl

theorem steps_eraseRangeBody (start length : Word) (s : State) : Steps b s (eraseRangeBody start length s) := by
  refine steps_finish (steps_andThen (steps_ensureIndirect _ _) fun t => ?_) (steps_respond _)
  refine Steps.trans ?_ (steps_eraseLoop _ _)
  exact Steps.one (.regs _ _ rfl rfl rfl rfl rfl rfl rfl fun _ => rfl)

theorem steps_eraseAllBody (s : State) : Steps b s (eraseAllBody s) :=
  steps_finish (steps_andThen (steps_ensureIndirect _ _) fun _ => steps_wcmd _ _ _ _ _ _) (steps_respond _)

theorem steps_checksumWord (s : State) : Steps b s (checksumWord s) :=
  (Steps.one (.memRead (s.cks.waddr.toNat + s.cks.cnt) 4 s)).trans
    (Steps.one (.regs _ _ rfl rfl rfl rfl rfl rfl rfl fun _ => rfl))

theorem steps_checksumLoop (n : Nat) (s : State) : Steps b s (checksumLoop n s) := by
  induction n generalizing s with
  | zero => exact .refl
  | succ n ih =>
    unfold checksumLoop
    split_ifs
    · exact (steps_checksumWord _).trans (ih _)
    · exact .refl

theorem steps_checksumCore (start length seed : Word) (s : State) : Steps b s (checksumCore start length seed s) := by
  refine Steps.trans ?_ (steps_checksumLoop _ _)
  exact Steps.one (.regs _ _ rfl rfl rfl rfl rfl rfl rfl fun _ => rfl)

theorem steps_checksumBody (start length seed : Word) (s : State) :
    Steps b s (checksumBody start length seed s) := by
  unfold checksumBody
  split_ifs
  · exact steps_respond _ _
  · exact steps_finish (steps_ensureMapped _ _) fun t => (steps_checksumCore _ _ _ _).trans (steps_respond _ _)

theorem steps_verifyLoop (start buf ck : Word) (n : Nat) (s : State) :
    Steps b s (verifyLoop start buf ck n s) := by
  induction n generalizing s with
  | zero => exact steps_respond _ _
  | succ n ih =>
    have h : Steps b s (ramReadOp (buf + s.vfy.vidx) (memReadOp (start + s.vfy.vidx).toNat 1 s)) :=
      (Steps.one (.memRead _ _ _)).trans (Steps.one (.ramRead _ _))
    unfold verifyLoop
    simp only
    split_ifs
    · refine (h.trans ?_).trans (ih _)
      exact Steps.one (.regs _ _ rfl rfl rfl rfl rfl rfl rfl fun _ => rfl)
    · refine (h.trans ?_).trans (steps_respond _ _)
      exact Steps.one (.regs _ _ rfl rfl rfl rfl rfl rfl rfl fun _ => rfl)

theorem steps_verifyBody (start length seed buf : Word) (s : State) :
    Steps b s (verifyBody start length seed buf s) := by
  unfold verifyBody
  split_ifs
  · exact steps_respond _ _
  · refine steps_finish (steps_ensureMapped _ _) fun t => ?_
    refine (steps_checksumCore start length seed t).trans (Steps.trans ?_ (steps_verifyLoop _ _ _ _ _))
    exact Steps.one (.regs _ _ rfl rfl rfl rfl rfl rfl rfl fun _ => rfl)

/-! ## Instructions -/

theorem steps_runRequest {op : BitVec 4} {needsInit : Bool} {extent : Nat} {body : State → State} {s t : State}
    (hb : ∀ s, Steps b s (body s)) (h : runRequest op needsInit extent body s = .next t) : Steps b s t := by
  obtain ⟨_, rfl⟩ := runRequest_eq_next.1 h
  exact (steps_accept _ _).trans (hb _)

theorem steps_runLine {r : Option Refusal} {body : State → State} {s t : State} (hb : ∀ s, Steps b s (body s))
    (h : runLine r body s = .next t) : Steps b s t := by
  obtain ⟨_, _, rfl⟩ := runLine_eq_next.1 h
  exact hb _

/-! Each instruction as the shared operation it is. -/

theorem exec_init (s : State) : exec .init s =
    runRequest 1 false 0 initBody s := rfl
theorem exec_program (start length buf : Word) (s : State) : exec (.program start length buf) s =
    runRequest 2 true (start.toNat + length.toNat) (programBody start length buf) s := rfl
theorem exec_eraseRange (start length : Word) (s : State) : exec (.eraseRange start length) s =
    runRequest 3 true (start.toNat + length.toNat) (eraseRangeBody start length) s := rfl
theorem exec_eraseAll (s : State) : exec .eraseAll s =
    runRequest 4 true 0 eraseAllBody s := rfl
theorem exec_checksum (start length seed : Word) (s : State) : exec (.checksum start length seed) s =
    runRequest 5 true (start.toNat + length.toNat) (checksumBody start length seed) s := rfl
theorem exec_verify (start length seed buf : Word) (s : State) : exec (.verify start length seed buf) s =
    runRequest 6 true (start.toNat + length.toNat) (verifyBody start length seed buf) s := rfl
theorem exec_resetEnable (s : State) : exec .resetEnable s = runLine none (encodeOp .resetEnable 0 []) s := rfl
theorem exec_reset (s : State) : exec .reset s = runLine none (encodeOp .reset 0 []) s := rfl
theorem exec_writeEnable (s : State) : exec .writeEnable s = runLine none (encodeOp .writeEnable 0 []) s := rfl
theorem exec_readStatus (s : State) : exec .readStatus s = runLine none (encodeOp .readStatus 0 []) s := rfl
theorem exec_chipErase (s : State) : exec .chipErase s = runLine none (encodeOp .chipErase 0 []) s := rfl
theorem exec_quadRead (s : State) : exec .quadRead s = runLine none (encodeOp .quadRead 0 []) s := rfl
theorem exec_enter4Byte (s : State) : exec .enter4Byte s = runLine none (encodeOp .enter4Byte 0 []) s := rfl
theorem exec_pageProgram (offset : Word) (payload : List Byte) (s : State) :
    exec (.pageProgram offset payload) s = runLine none (encodeOp .pageProgram offset.toNat payload) s := rfl
theorem exec_sectorErase (offset : Word) (s : State) :
    exec (.sectorErase offset) s = runLine none (encodeOp .sectorErase offset.toNat []) s := rfl
theorem exec_send (s : State) : exec .send s = runLine (sendRefusal s) sendOp s := rfl
theorem exec_poll (spec : PollSpec) (s : State) : exec (.poll spec) s = runLine (indirectOnly s) (pollOp spec) s := rfl
theorem exec_map (s : State) : exec .map s = runLine none mapOp s := rfl
theorem exec_abort (s : State) : exec .abort s = runLine none abortOp s := rfl

/-- Whatever an instruction does, it does by primitives; only INIT writes INIT_DONE. -/
theorem exec_steps {i : Instr} {s t : State} (h : exec i s = .next t) : Steps (i == .init) s t := by
  cases i with
  | init => exact steps_runRequest steps_initBody ((exec_init s).symm.trans h)
  | program => exact steps_runRequest (steps_programBody _ _ _) ((exec_program _ _ _ s).symm.trans h)
  | eraseRange => exact steps_runRequest (steps_eraseRangeBody _ _) ((exec_eraseRange _ _ s).symm.trans h)
  | eraseAll => exact steps_runRequest steps_eraseAllBody ((exec_eraseAll s).symm.trans h)
  | checksum => exact steps_runRequest (steps_checksumBody _ _ _) ((exec_checksum _ _ _ s).symm.trans h)
  | verify => exact steps_runRequest (steps_verifyBody _ _ _ _) ((exec_verify _ _ _ _ s).symm.trans h)
  | resetEnable => exact steps_runLine (steps_encodeOp _ _ _) ((exec_resetEnable s).symm.trans h)
  | reset => exact steps_runLine (steps_encodeOp _ _ _) ((exec_reset s).symm.trans h)
  | writeEnable => exact steps_runLine (steps_encodeOp _ _ _) ((exec_writeEnable s).symm.trans h)
  | readStatus => exact steps_runLine (steps_encodeOp _ _ _) ((exec_readStatus s).symm.trans h)
  | chipErase => exact steps_runLine (steps_encodeOp _ _ _) ((exec_chipErase s).symm.trans h)
  | quadRead => exact steps_runLine (steps_encodeOp _ _ _) ((exec_quadRead s).symm.trans h)
  | enter4Byte => exact steps_runLine (steps_encodeOp _ _ _) ((exec_enter4Byte s).symm.trans h)
  | pageProgram => exact steps_runLine (steps_encodeOp _ _ _) ((exec_pageProgram _ _ s).symm.trans h)
  | sectorErase => exact steps_runLine (steps_encodeOp _ _ _) ((exec_sectorErase _ s).symm.trans h)
  | send => exact steps_runLine (fun _ => Steps.one (.send _)) ((exec_send s).symm.trans h)
  | poll => exact steps_runLine (fun _ => Steps.one (.poll _ _)) ((exec_poll _ s).symm.trans h)
  | map => exact steps_runLine (fun _ => Steps.one (.map _)) ((exec_map s).symm.trans h)
  | abort => exact steps_runLine (fun _ => Steps.one (.abort _)) ((exec_abort s).symm.trans h)

/-- What `step` can do: run the sequencer's line, wait, take a block reset, or take a request. -/
theorem step_cases {s t : State} (h : step s = .next t) :
    s.cfg.wf = true ∧
      ((∃ r i, s.seq.pos = some r ∧ decode s.cfg.cat r = .ok i ∧ exec i (leaveLine r s) = .next t) ∨
        (s.seq.pos = none ∧ s.host.moves = [] ∧ t = s) ∨
        (∃ ms, s.seq.pos = none ∧ s.host.moves = .blockReset :: ms ∧ t = blockReset (takeMove ms [] s)) ∨
        (∃ req buffer ms i, s.seq.pos = none ∧ s.host.moves = .request req buffer :: ms ∧ decodeReq req = some i ∧
          exec i (takeMove ms buffer s) = .next t) ∨
        (∃ req buffer ms, s.seq.pos = none ∧ s.host.moves = .request req buffer :: ms ∧ decodeReq req = none ∧
          t = illegalResponse (takeMove ms buffer s))) := by
  unfold step at h
  split_ifs at h with hw
  refine ⟨by simpa using hw, ?_⟩
  split at h
  · rename_i r hr
    split at h
    · exact .inl ⟨r, _, hr, ‹_›, h⟩
    · cases h
  · rename_i hp
    split at h
    · cases h; exact .inr (.inl ⟨hp, ‹_›, rfl⟩)
    · cases h; exact .inr (.inr (.inl ⟨_, hp, ‹_›, rfl⟩))
    · split at h
      · exact .inr (.inr (.inr (.inl ⟨_, _, _, _, hp, ‹_›, ‹_›, h⟩)))
      · cases h; exact .inr (.inr (.inr (.inr ⟨_, _, _, hp, ‹_›, ‹_›, rfl⟩)))

end Sys2Proof.Machine
end

