-- ==== Sys2Proof/Tests/Slice0.lean ====
section
/-! SUPPORT. Tests: the well-formedness checks, words written out from 30_encoding.md, the vectors of
95_test_vectors.md, and for every statement with hypotheses a state and operands that meet them. -/

namespace Sys2Proof.Tests

open Sys2Proof Sys2Proof.Machine

/-! ## Helpers -/

/-- The state after an outcome, or the state given where there is none. -/
def after (o : Host.Outcome State Fault Refusal) (s : State) : State :=
  match o with
  | .next t => t
  | _ => s

def refusalOf (o : Host.Outcome State Fault Refusal) : Option Refusal :=
  match o with
  | .refused r => some r
  | _ => none

/-- A call answered OK; a call answered BUS_ERROR; a poll that takes these samples. -/
def ok : Draw := { busErrorAfter := none, samples := [] }
def bus : Draw := { busErrorAfter := some 0, samples := [] }
def poll (bs : List Byte) : Draw := { busErrorAfter := none, samples := bs }

/-- The answers of one elementary command that succeeds under REFCAT. -/
def wcmdOk : List Draw := [ok, poll [0x02], ok, poll [0x00]]

/-- After a successful INIT, in a mode, with the environment's answers and the flash and RAM bytes given. -/
def state (mode : Mode) (script : List Draw) (flash ram : List Host.Cell) : State :=
  { State.reset with
    mode := mode
    initDone := true
    dev := { Device.start with script := script, flash := flash, busy := .idle }
    host := { moves := [], ram := ram } }

/-- TCFG with a small device: pages of 4, sectors of 8, 32 bytes. -/
def small : Cfg := { tcfg with geom := { pageSize := 4, sectorSize := 8, totalSize := 32, eraseValue := 0xFF } }

/-- The same on the small device. -/
def smallState (mode : Mode) (script : List Draw) (flash ram : List Host.Cell) : State :=
  { state mode script flash ram with cfg := small }

/-- The (word 0, word 1, word 3) of the SENDs of a trace. -/
def sends (es : List Event) : List (Word × Word × Word) :=
  es.filterMap fun e =>
    match e with
    | .send c _ => some (c.w0, c.w1, c.w3)
    | _ => none

/-- Bytes `b, b+1, …` from an address on. -/
def bytesAt (a : Nat) (bs : List Byte) : List Host.Cell := (bs.zipIdx).map (fun p => (a + p.2, p.1))

/-- The flash pattern of 95_test_vectors.md section 2.6: byte `i` is `0x10 + i`. -/
def pattern : List Host.Cell := (List.range 16).map (fun i => (i, BitVec.ofNat 8 (0x10 + i)))

/-! ## Well-formedness: a good term, and an ill-formed one for each check -/

def withCat (f : Catalog → Catalog) : Cfg := { tcfg with cat := f refcat }

theorem test_tcfg_wf : tcfg.wf = true ∧ refcat.distinctOpcodes = true := by decide
theorem test_page_size_zero : ({ tcfg with geom := { tcfg.geom with pageSize := 0 } } : Cfg).wf = false := by decide
theorem test_sector_size_zero : ({ tcfg with geom := { tcfg.geom with sectorSize := 0 } } : Cfg).wf = false := by decide
theorem test_total_not_multiple : ({ tcfg with geom := { tcfg.geom with totalSize := 5000 } } : Cfg).wf = false := by
  decide
theorem test_address_bytes_five : (withCat fun c => { c with addressBytes := 5 }).wf = false := by decide
theorem test_wel_bit_zero : (withCat fun c => { c with welBit := 0 }).wf = false := by decide
theorem test_wip_bit_zero : (withCat fun c => { c with wipBit := 0 }).wf = false := by decide
theorem test_instruction_lines_absent :
    (withCat fun c => { c with reset := { c.reset with ilines := 0 } }).wf = false := by decide
theorem test_instruction_lines_three :
    (withCat fun c => { c with reset := { c.reset with ilines := 3 } }).wf = false := by decide
theorem test_address_lines_eight :
    (withCat fun c => { c with sectorErase := { c.sectorErase with alines := 8 } }).wf = false := by decide
theorem test_alternate_lines_three :
    (withCat fun c => { c with quadRead := { c.quadRead with altLines := 3 } }).wf = false := by decide
theorem test_data_lines_five :
    (withCat fun c => { c with readStatus := { c.readStatus with dlines := 5 } }).wf = false := by decide
theorem test_dummy_cycles_32 :
    (withCat fun c => { c with quadRead := { c.quadRead with dummyCycles := 32 } }).wf = false := by decide
theorem test_alt_size_five :
    (withCat fun c => { c with quadRead := { c.quadRead with altSize := 5, altLines := 1 } }).wf = false := by decide
theorem test_address_phase_missing :
    (withCat fun c => { c with pageProgram := { c.pageProgram with alines := 0 } }).wf = false := by decide
theorem test_data_phase_missing :
    (withCat fun c => { c with readStatus := { c.readStatus with dlines := 0 } }).wf = false := by decide
theorem test_alternate_phase_missing :
    (withCat fun c => { c with quadRead := { c.quadRead with altSize := 1 } }).wf = false := by decide
theorem test_reset_missing :
    (withCat fun c => { c with reset := { c.reset with present := false } }).wf = false := by decide
theorem test_reset_enable_may_be_missing :
    (withCat fun c => { c with resetEnable := { c.resetEnable with present := false } }).wf = true := by decide
theorem test_opcodes_clash :
    (withCat fun c => { c with reset := { c.reset with opcode := 0x66 } }).cat.distinctOpcodes = false := by decide
theorem test_offset_too_wide :
    (Instr.sectorErase 0x01000000).wf refcat = false ∧ (Instr.pageProgram 0x01000000 []).wf refcat = false := by decide
theorem test_payload_too_long (payload : List Byte) (h : payload.length = 2 ^ 32) :
    (Instr.pageProgram 0 payload).wf refcat = false := by
  simp only [Instr.wf, h, Nat.lt_irrefl, decide_false, Bool.and_false]

/-! ## Decoding: words written out from R76, R77, R82, R84, R85 -/

/-- HOSTREQ word 0 is OP in [3:0]; then START, LENGTH, SEED, BUF (R76, R77). -/
theorem test_decode_requests :
    decode refcat ⟨.hostReq, [1, 7, 7, 7, 7], []⟩ = .ok .init ∧
    decode refcat ⟨.hostReq, [2, 0xA, 0xB, 0xC, 0xD], []⟩ = .ok (.program 0xA 0xB 0xD) ∧
    decode refcat ⟨.hostReq, [3, 0xA, 0xB, 0xC, 0xD], []⟩ = .ok (.eraseRange 0xA 0xB) ∧
    decode refcat ⟨.hostReq, [4, 0xA, 0xB, 0xC, 0xD], []⟩ = .ok .eraseAll ∧
    decode refcat ⟨.hostReq, [5, 0xA, 0xB, 0xC, 0xD], []⟩ = .ok (.checksum 0xA 0xB 0xC) ∧
    decode refcat ⟨.hostReq, [6, 0xA, 0xB, 0xC, 0xD], []⟩ = .ok (.verify 0xA 0xB 0xC 0xD) := by decide

/-- BUSCMD: OPCODE [7:0], IMODE [9:8] = 1, ADMODE [11:10] = 1, ADSIZE [13:12] = 2, DCYC [22:18] = 8, DMODE [24:23],
DDIR [26:25] (R82), with the REFCAT bytes of D37. -/
theorem test_decode_commands :
    decode refcat ⟨.busCmd, [0x66 + 1 * 2 ^ 8, 0, 0, 0], []⟩ = .ok .resetEnable ∧
    decode refcat ⟨.busCmd, [0x99 + 1 * 2 ^ 8, 0, 0, 0], []⟩ = .ok .reset ∧
    decode refcat ⟨.busCmd, [0x06 + 1 * 2 ^ 8, 0, 0, 0], []⟩ = .ok .writeEnable ∧
    decode refcat ⟨.busCmd, [0x05 + 1 * 2 ^ 8 + 1 * 2 ^ 23 + 1 * 2 ^ 25, 0, 0, 1], []⟩ = .ok .readStatus ∧
    decode refcat ⟨.busCmd, [0x02 + 1 * 2 ^ 8 + 1 * 2 ^ 10 + 2 * 2 ^ 12 + 1 * 2 ^ 23 + 2 * 2 ^ 25, 0xFE, 0, 2], [0x11, 0x22]⟩
      = .ok (.pageProgram 0xFE [0x11, 0x22]) ∧
    decode refcat ⟨.busCmd, [0x20 + 1 * 2 ^ 8 + 1 * 2 ^ 10 + 2 * 2 ^ 12, 0x1000, 0, 0], []⟩ = .ok (.sectorErase 0x1000) ∧
    decode refcat ⟨.busCmd, [0xC7 + 1 * 2 ^ 8, 0, 0, 0], []⟩ = .ok .chipErase ∧
    decode refcat
      ⟨.busCmd, [0x6B + 1 * 2 ^ 8 + 1 * 2 ^ 10 + 2 * 2 ^ 12 + 8 * 2 ^ 18 + 3 * 2 ^ 23 + 1 * 2 ^ 25, 0, 0, 0], []⟩
      = .ok .quadRead ∧
    decode refcat ⟨.busCmd, [0xB7 + 1 * 2 ^ 8, 0, 0, 0], []⟩ = .ok .enter4Byte := by decide

/-- XCALL kinds 0 to 3 with their BUSCMD; POLL's POLLSPEC has MASK [7:0], MATCH [15:8], INTERVAL, TIMEOUT (R84, R85). -/
theorem test_decode_calls :
    decode refcat ⟨.xcall, [0], []⟩ = .ok .send ∧
    decode refcat ⟨.xcall, [0, 0x04802502, 0xFE, 0, 2], [0x11, 0x22]⟩ = .ok .send ∧
    decode refcat ⟨.xcall, [1, 0x02800105, 0, 0, 1, 0x01 + 0x02 * 2 ^ 8, 16, 256], []⟩
      = .ok (.poll ⟨0x01, 0x02, 16, 256⟩) ∧
    decode refcat ⟨.xcall, [2, 0x03A0256B, 0, 0, 0], []⟩ = .ok .map ∧ decode refcat ⟨.xcall, [2], []⟩ = .ok .map ∧
    decode refcat ⟨.xcall, [3], []⟩ = .ok .abort := by decide

/-- Each decode error by name: DSP-1 to DSP-5, a reserved descriptor (R88), an unknown byte, a wrong payload length
(R89), a call kind or POLLSPEC with stray bits. -/
theorem test_decode_errors :
    ([0x00000000, 0x00000007, 0x0000000F, 0x00000012, 0x80000005] : List Word).map
        (fun w => decode refcat ⟨.hostReq, [w], []⟩) = List.replicate 5 (.error .illegalRequest) ∧
    decode refcat ⟨.busCmd, [0x06 + 3 * 2 ^ 25 + 1 * 2 ^ 8, 0, 0, 0], []⟩ = .error .reservedDescriptor ∧
    decode refcat ⟨.busCmd, [0x07 + 1 * 2 ^ 8, 0, 0, 0], []⟩ = .error .unknownOpcode ∧
    decode refcat ⟨.busCmd, [0x04802502, 0xFE, 0, 2], [0x11]⟩ = .error .payloadLength ∧
    decode refcat ⟨.xcall, [4], []⟩ = .error .reservedCall ∧
    decode refcat ⟨.xcall, [1, 0x02800105, 0, 0, 1, 0x10000, 0, 0], []⟩ = .error .reservedPollSpec ∧
    decode refcat ⟨.xcall, [2, 0x02800105, 0, 0, 1], []⟩ = .error .foreignCommand := by decide

/-- The rows of opcode_table.json by their own bits (MAP's byte 0x02 is PAGE_PROGRAM's: log 13). -/
theorem test_table_words :
    [1, 2, 3, 4, 5, 6].map (decodeTableWord 32) =
      [some .init, some (.program 0 0 0), some (.eraseRange 0 0), some .eraseAll, some (.checksum 0 0 0),
        some (.verify 0 0 0 0)] ∧
    [0x66, 0x99, 0x06, 0x05, 0x02, 0x20, 0xC7, 0x6B, 0xB7].map (decodeTableWord 8) =
      [some .resetEnable, some .reset, some .writeEnable, some .readStatus, some (.pageProgram 0 []),
        some (.sectorErase 0), some .chipErase, some .quadRead, some .enter4Byte] ∧
    [0, 1, 3].map (decodeTableWord 8) = [some .send, some (.poll ⟨0, 0, 0, 0⟩), some .abort] ∧
    decodeTableWord 2 2 = some .map := by decide

/-- Each of those rows is what the next step from reset runs: it has a next state. -/
theorem test_table_words_run :
    [1, 2, 3, 4, 5, 6].map (fun w => refusalOf (step (State.reset.withFetchWord 32 w))) = List.replicate 6 none ∧
    [0x66, 0x99, 0x06, 0x05, 0x02, 0x20, 0xC7, 0x6B, 0xB7, 0, 1, 3].map
      (fun w => refusalOf (step (State.reset.withFetchWord 8 w))) = List.replicate 12 none := by decide

/-! ## The encoder's vectors (95_test_vectors.md 2.1) -/

/-- ENC-1, ENC-2, ENC-3, ENC-4, ENC-6, ENC-7, ENC-8, ENC-9: word 0. -/
theorem test_encode_refcat_word0 :
    allKinds.map (encodeWord0 refcat) =
      [0x00000166, 0x00000199, 0x00000106, 0x02800105, 0x04802502, 0x00002520, 0x000001C7, 0x03A0256B, 0x000001B7] := by
  decide

/-- ENC-10, ENC-11, ENC-12: four address bytes, and truncation to three. -/
theorem test_encode_address_bytes :
    (encodeCmd { refcat with addressBytes := 4 } .pageProgram 0x01000100 []).w0 = 0x04803502 ∧
    (encodeCmd { refcat with addressBytes := 4 } .pageProgram 0x01000100 []).w1 = 0x01000100 ∧
    (encodeCmd refcat .pageProgram 0x01000100 []).w1 = 0x00000100 ∧
    (encodeCmd { refcat with addressBytes := 4 } .sectorErase 0x02345000 []).w0 = 0x00003520 := by decide

/-- ENC-13, ENC-14, ENC-15: alternate bytes. -/
theorem test_encode_alternate_bytes :
    (let e := { refcat.quadRead with opcode := 0xEB, alines := 4, altLines := 4, altSize := 1, altValue := 0x1F0, dummyCycles := 4 }
     let c := encodeCmd { refcat with quadRead := e } .quadRead 0 []
     (c.w0, c.w2) = ((0x0390EDEB : Word), (0x000000F0 : Word))) ∧
    (let e := { refcat.quadRead with opcode := 0xEB, alines := 4, altLines := 4, altSize := 2, altValue := 0x1ABCD, dummyCycles := 4 }
     let c := encodeCmd { refcat with quadRead := e } .quadRead 0 []
     (c.w0, c.w2) = ((0x0391EDEB : Word), (0x0000ABCD : Word))) ∧
    (let e := { refcat.quadRead with opcode := 0xBB, alines := 2, dlines := 2, altLines := 2, altSize := 4, altValue := 0x12345678, dummyCycles := 0 }
     let c := encodeCmd { refcat with quadRead := e } .quadRead 0 []
     (c.w0, c.w2) = ((0x0303A9BB : Word), (0x12345678 : Word))) := by decide

/-- ENC-16, ENC-17: wide status read with DTR; a quad page program. -/
theorem test_encode_widths :
    (let e := { refcat.readStatus with ilines := 4, dummyCycles := 31, dtr := true }
     (encodeCmd { refcat with readStatus := e } .readStatus 0 []).w0) = 0x0AFC0305 ∧
    (let e := { refcat.pageProgram with opcode := 0x32, dlines := 4 }
     let c := encodeCmd { refcat with pageProgram := e } .pageProgram 0x100 [1, 2, 3]
     (c.w0, c.w3)) = ((0x05802532 : Word), (3 : Word)) := by decide

/-! ## Bus commands and calls, one step each -/

/-- The command an instruction leaves in `cmd`. -/
def encoded (i : Instr) : Word × Word × Word :=
  let c := (after (exec i State.reset) State.reset).seq.cmd
  (c.w0, c.w1, c.w3)

theorem test_resetEnable : encoded .resetEnable = (0x00000166, 0, 0) := by decide
theorem test_reset : encoded .reset = (0x00000199, 0, 0) := by decide
theorem test_writeEnable : encoded .writeEnable = (0x00000106, 0, 0) := by decide
theorem test_readStatus : encoded .readStatus = (0x02800105, 0, 1) := by decide
theorem test_pageProgram : encoded (.pageProgram 0xFE [0x11, 0x22]) = (0x04802502, 0x000000FE, 2) := by decide
theorem test_pageProgram_truncates : encoded (.pageProgram 0x01000100 [7]) = (0x04802502, 0x00000100, 1) := by decide
theorem test_sectorErase : encoded (.sectorErase 0x1000) = (0x00002520, 0x00001000, 0) := by decide
theorem test_chipErase : encoded .chipErase = (0x000001C7, 0, 0) := by decide
theorem test_quadRead : encoded .quadRead = (0x03A0256B, 0, 0) := by decide
theorem test_enter4Byte : encoded .enter4Byte = (0x000001B7, 0, 0) := by decide

/-- R114: the event carries the encoded command and the answer. -/
theorem test_send :
    (after (exec .send (state .indirect [bus] [] [])) State.reset).trace = [.send (encodeCmd refcat .reset 0 []) .busError] := by
  decide
/-- R21: no SEND while mapped. -/
theorem test_send_mapped : refusalOf (exec .send (state .mapped [ok] [] [])) = some .modeDiscipline := by decide

/-- POLL-1: samples 00, 00, 02 answer OK after three. -/
theorem test_poll_ok :
    let t := after (exec (.poll (welWait refcat)) (state .indirect [poll [0, 0, 2]] [] [])) State.reset
    t.seq.ret = .ok ∧ t.pol.count = 3 ∧ t.pol.hit = true := by decide
/-- POLL-3: 17 samples 00 answer TIMED_OUT after 17. -/
theorem test_poll_timeout :
    let t := after (exec (.poll (welWait refcat)) (state .indirect [poll (List.replicate 17 0)] [] [])) State.reset
    t.seq.ret = .timedOut ∧ t.pol.count = 17 := by decide
/-- POLL-5 and POLL-7: the last sample of the budget hits; BUS_ERROR after one sample. -/
theorem test_poll_edges :
    (let t := after (exec (.poll (wipWait refcat 256)) (state .indirect [poll (List.replicate 16 1 ++ [0])] [] [])) State.reset
     t.seq.ret = .ok ∧ t.pol.count = 17) ∧
    (let t := after (exec (.poll (wipWait refcat 256)) (state .indirect [⟨some 1, [1]⟩] [] [])) State.reset
     t.seq.ret = .busError ∧ t.pol.count = 1) := by decide
/-- CMP-1 to CMP-6. -/
theorem test_comparator :
    comparator 0x03 0x01 0x00 = false ∧ comparator 0x02 0x01 0x00 = true ∧ comparator 0x02 0x02 0x02 = true ∧
    comparator 0x01 0x02 0x02 = false ∧ comparator 0xFC 0x01 0x00 = true ∧ comparator 0xFD 0x02 0x02 = false := by decide
/-- PB-1 to PB-9. -/
theorem test_poll_budget :
    [pollBudget 16 256, pollBudget 16 4096, pollBudget 16 65536, pollBudget 16 16777216, pollBudget 16 16,
      pollBudget 16 15, pollBudget 0 5, pollBudget 0 0, pollBudget 3 10] = [17, 257, 4097, 1048577, 2, 1, 6, 1, 4] := by
  decide

theorem test_map :
    let t := after (exec .map (state .indirect [ok] [] [])) State.reset
    t.mode = .mapped ∧ t.trace = [.map (encodeCmd refcat .quadRead 0 []) .ok] := by decide
theorem test_map_bus_error : (after (exec .map (state .indirect [bus] [] [])) State.reset).mode = .indirect := by decide
theorem test_abort :
    let t := after (exec .abort (state .mapped [ok] [] [])) State.reset
    t.mode = .indirect ∧ t.trace = [.abort .ok] := by decide
theorem test_abort_bus_error : (after (exec .abort (state .mapped [bus] [] [])) State.reset).mode = .mapped := by decide

/-! ## Requests, one step each -/

/-- INI-1. -/
theorem test_init :
    let t := after (exec .init (state .indirect [ok, ok, poll [0]] [] [])) State.reset
    sends t.trace = [(0x00000166, 0, 0), (0x00000199, 0, 0)] ∧ t.trace.length = 3 ∧ t.initDone = true ∧
      t.mode = .indirect ∧ t.rsp = Response.zero := by decide
/-- INI-5: the reset poll times out. -/
theorem test_init_timeout :
    let t := after (exec .init (state .indirect [ok, ok, poll (List.replicate 17 1)] [] [])) State.reset
    t.initDone = false ∧ t.rsp = { Response.zero with status := .initError } := by decide

/-- SRC-3 and P2 request 1: chunks (0xFE, 2) and (0x100, 2), data 11 22 33 44. -/
theorem test_program :
    let s := state .indirect (wcmdOk ++ wcmdOk) [] (bytesAt 0x20000100 [0x11, 0x22, 0x33, 0x44])
    let t := after (exec (.program 0xFE 4 0x20000100) s) State.reset
    sends t.trace =
      [(0x00000106, 0, 0), (0x04802502, 0xFE, 2), (0x00000106, 0, 0), (0x04802502, 0x100, 2)] ∧
    t.trace.filterMap (fun e => match e with | .ramRd a b => some (a, b) | _ => none) =
      [(0x20000100, 0x11), (0x20000101, 0x22), (0x20000102, 0x33), (0x20000103, 0x44)] ∧ t.rsp = Response.zero := by
  decide
/-- P3 request 1: the second WEL wait times out; the response names chunk 0x100 and no PAGE_PROGRAM follows. -/
theorem test_program_timeout :
    let s := state .mapped ([ok] ++ wcmdOk ++ [ok, poll (List.replicate 17 0)]) [] []
    let t := after (exec (.program 0xFE 4 0x20000000) s) State.reset
    t.rsp = { Response.zero with status := .timedOut, errAddr := 0x100 } ∧
    (sends t.trace).map (fun x => x.2.1) = [0, 0xFE, 0] ∧ t.mode = .indirect := by decide

/-- ERS-3: the sectors 0x1000 and 0x2000. -/
theorem test_eraseRange :
    let t := after (exec (.eraseRange 0x1FFF 2) (state .indirect (wcmdOk ++ wcmdOk) [] [])) State.reset
    sends t.trace = [(0x00000106, 0, 0), (0x00002520, 0x1000, 0), (0x00000106, 0, 0), (0x00002520, 0x2000, 0)] ∧
    t.rsp = Response.zero := by decide
/-- ERS-10: the second sector's WEL wait times out. -/
theorem test_eraseRange_timeout :
    let s := state .indirect (wcmdOk ++ [ok, poll (List.replicate 17 0)]) [] []
    let t := after (exec (.eraseRange 0x1000 0x2000) s) State.reset
    t.rsp = { Response.zero with status := .timedOut, errAddr := 0x2000 } ∧ t.trace.length = 6 := by decide

/-- ERS-11. -/
theorem test_eraseAll :
    let t := after (exec .eraseAll (state .indirect wcmdOk [] [])) State.reset
    sends t.trace = [(0x00000106, 0, 0), (0x000001C7, 0, 0)] ∧ t.trace.length = 4 ∧ t.rsp = Response.zero := by decide
/-- MOD-4, and BUS_ERROR of the CHIP_ERASE send: error address 0. -/
theorem test_eraseAll_bus_error :
    let t := after (exec .eraseAll (state .mapped [ok, ok, poll [2], bus] [] [])) State.reset
    t.trace.head? = some (.abort .ok) ∧ t.rsp = { Response.zero with status := .busError } ∧ t.mode = .indirect := by decide

/-- SRC-2: Scenario 2, from MODE = INDIRECT. -/
theorem test_checksum :
    let s := state .indirect [ok] (bytesAt 0 [0xAA, 0x01, 0x02, 0x03, 0x04, 0x05, 0x06, 0xBB]) []
    let t := after (exec (.checksum 1 6 0) s) State.reset
    t.rsp = { Response.zero with checksum := 0x15 } ∧ t.mode = .mapped ∧
    t.trace.tail = [.memRd 0 [0xAA, 0x01, 0x02, 0x03], .memRd 4 [0x04, 0x05, 0x06, 0xBB]] := by decide
/-- CK-3, CK-8, CK-11, CK-12 and CK-16: over-inclusion, two words, and the wrap modulo 2^32. -/
theorem test_checksum_corners :
    ([(1, 2), (3, 2), (5, 10), (6, 1)] : List (Word × Word)).map
      (fun x => (after (exec (.checksum x.1 x.2 0) (state .mapped [] pattern [])) State.reset).rsp.checksum)
      = [0x36, 0x27, 0xFF, 0x2D] ∧
    (after (exec (.checksum 0 4 0xFFFFFFF0) (state .mapped [] (bytesAt 0 (List.replicate 8 0xFF)) [])) State.reset).rsp.checksum
      = 0x000003EC := by decide

/-- VFY-1: the mismatch at offset 1; the byte at offset 2 is not compared. -/
theorem test_verify :
    let s := state .mapped [] (bytesAt 0 [0x10, 0x20, 0x30, 0]) (bytesAt 0x100 [0x10, 0x21, 0x30])
    let t := after (exec (.verify 0 3 0 0x100) s) State.reset
    responseWords t.rsp = [0x00000100, 0, 0x00000060, 0x00000001] ∧
    t.trace = [.memRd 0 [0x10, 0x20, 0x30, 0], .memRd 0 [0x10], .ramRd 0x100 0x10, .memRd 1 [0x20], .ramRd 0x101 0x21] := by
  decide
/-- VFY-4: the checksum over-includes byte 3, the compare does not. -/
theorem test_verify_match :
    (after (exec (.verify 1 2 0 0x100) (state .mapped [] pattern (bytesAt 0x100 [0x11, 0x12]))) State.reset).rsp
      = { Response.zero with checksum := 0x36 } := by decide

/-- R169, R151 on the small device: a sector erased, then five bytes programmed across a page boundary. -/
theorem test_stored_bytes :
    let s := smallState .indirect (wcmdOk ++ wcmdOk ++ wcmdOk) [] (bytesAt 0x100 [1, 2, 3, 4, 5])
    let t := after (exec (.eraseRange 9 1) s) State.reset
    let u := after (exec (.program 10 5 0x100) t) State.reset
    (List.range' 8 8).map (flashByte t.dev) = List.replicate 8 0xFF ∧
    (List.range' 8 8).map (flashByte u.dev) = [0xFF, 0xFF, 1, 2, 3, 4, 5, 0xFF] ∧ u.dev.inflight = [] := by decide

/-- 93 row 8: after a WIP wait that fails, the chunk's bytes are still unsettled and the bytes before it are not. -/
theorem test_failed_chunk_unsettled :
    let s := smallState .indirect (wcmdOk ++ [ok, poll [2], ok, bus]) (bytesAt 8 (List.replicate 8 0xFF)) []
    let t := after (exec (.program 10 5 0x100) s) State.reset
    [9, 10, 11, 12, 14, 15].map (unsettled t.dev) = [false, false, false, true, true, false] := by decide

/-- R264, DEV-3: after a later poll has read the latch clear, WEL-wait OK before it or not, a PAGE_PROGRAM is ignored. -/
theorem test_latch_read_clear :
    let s := smallState .indirect [poll [2], poll (List.replicate 17 0), ok] (bytesAt 8 (List.replicate 8 0xFF)) []
    let s := { s with dev := { s.dev with busy := .idle } }
    let t := after (runLines [.poll (welWait refcat), .poll (welWait refcat), .pageProgram 10 [1, 2], .send] s) s
    t.trace.length = 3 ∧ (List.range' 8 8).map (flashByte t.dev) = List.replicate 8 0xFF ∧ t.dev.busy = .idle ∧
      t.dev.inflight = [] := by decide
/-- R265: a WIP wait answered TIMED_OUT, as INIT's may be, leaves a device that may be busy. -/
theorem test_wip_timeout_may_be_busy :
    let s := state .indirect [poll (List.replicate 17 1)] [] []
    let t := after (exec (.poll (wipWait refcat 256)) { s with dev := { s.dev with busy := .idle } }) s
    t.seq.ret = .timedOut ∧ t.dev.busy = .unsure := by decide

/-- R85: a SEND record's BUSCMD is what the step sends. -/
theorem test_send_operand :
    let s := state .indirect [ok] [] []
    let r := callRecord 0 (encodeCmd refcat .sectorErase 0x1000 []) []
    (after (step { s with seq := { s.seq with pos := some r } }) s).trace
      = [.send (encodeCmd refcat .sectorErase 0x1000 []) .ok] := by decide

/-- R263, D28: four bytes programmed from 10, two bytes before the end of a page of 4, wrap to 8 and 9. -/
theorem test_program_wraps :
    let s := smallState .indirect [ok, poll [2], ok, poll [0]] (bytesAt 8 (List.replicate 8 0xFF)) []
    let t := after (runLines (wcmdLines refcat .pageProgram 10 [1, 2, 3, 4] 4096) s) s
    (List.range' 8 8).map (flashByte t.dev) = [3, 4, 1, 2, 0xFF, 0xFF, 0xFF, 0xFF] ∧ t.dev.busy = .idle := by decide

/-- R169, D28: SECTOR_ERASE at an offset inside a sector of 8 erases that sector. -/
theorem test_erase_containing_sector :
    let s := smallState .indirect wcmdOk (bytesAt 0 (List.replicate 24 0)) []
    let t := after (runLines (wcmdLines refcat .sectorErase 13 [] 65536) s) s
    [7, 8, 15, 16].map (flashByte t.dev) = [0, 0xFF, 0xFF, 0] := by decide

/-- R169 and log 29: an erase after a PROGRAM that failed with BUS_ERROR in its WIP wait has its result. -/
theorem test_erase_after_bus_error :
    let s := smallState .indirect ([ok, poll [2], ok, bus] ++ wcmdOk) [] (bytesAt 0x100 [1, 2, 3])
    let t := after (exec (.program 8 3 0x100) s) s
    let u := after (exec (.eraseRange 8 3) t) s
    t.rsp.status = .busError ∧ t.dev.busy = .idle ∧ unsettled t.dev 8 = true ∧
      (List.range' 8 8).map (flashByte u.dev) = List.replicate 8 0xFF := by decide

/-- R138, 93 row 29: after TIMED_OUT in a WIP wait the device may still be busy, and an erase has no known result. -/
theorem test_erase_after_timeout :
    let s : State :=
      { smallState .indirect ([ok, poll [2], ok, poll (List.replicate 17 1)] ++ wcmdOk) [] (bytesAt 0x100 [1, 2, 3]) with
        cfg := { small with cat := { refcat with tProgram := 256 } } }
    let t := after (exec (.program 8 3 0x100) s) s
    let u := after (exec (.eraseRange 8 3) t) s
    t.rsp.status = .timedOut ∧ t.dev.busy = .unsure ∧ u.rsp.status = .ok ∧ u.dev.busy = .idle ∧
      unsettled u.dev 8 = true := by decide

/-- DSP-6 and DSP-7: an illegal request is answered before INIT; a legal one is refused. -/
theorem test_dispatch_before_init :
    let s (w : Word) : State := { State.reset with host := { moves := [.request ⟨w, 0, 0, 0, 0⟩ []], ram := [] } }
    (after (step (s 7)) State.reset).rsp = { Response.zero with status := .illegalRequest } ∧
    refusalOf (step (s 5)) = some .notInitialised := by decide

/-- SPL-5, SPL-9 and SPL-10: the chunk lists. -/
theorem test_chunks :
    chunkList 256 0x1FF 258 = [(0x1FF, 1), (0x200, 256), (0x300, 1)] ∧
    chunkList 256 0x080 0x300 = [(0x080, 128), (0x100, 256), (0x200, 256), (0x300, 128)] ∧
    chunkList 100 150 120 = [(150, 50), (200, 70)] := by decide

/-- ERS-2, ERS-4 and ERS-9: the sector lists. -/
theorem test_sectors :
    sectorList 0x1000 0 0x1000 = [0, 0x1000] ∧ sectorList 0x1000 0x1800 0 = [0x1000] ∧
    sectorList 0x1000 0xFFFFF000 0xFFF = [0xFFFFF000] := by decide

/-- R90, R91: texts of the spec. -/
theorem test_text :
    parseRequest "PROGRAM 0xFE, 4, 0x2000" = some (.program 0xFE 4 0x2000) ∧
    parseRequest "ERASE_RANGE 0, 1" = some (.eraseRange 0 1) ∧
    responseText true { Response.zero with checksum := 0x60, mmValid := true, mmAddr := 1 }
      = "=> OK ck=0x00000060 mm=0x1" ∧
    eventText (.send (encodeCmd refcat .pageProgram 0xFE [0x11, 0x22]) .ok) = "SEND PAGE_PROGRAM addr=0xFE data=11 22" ∧
    eventText (.poll (encodeCmd refcat .readStatus 0 []) (wipWait refcat 4096) .timedOut)
      = "POLL 01/00 t=4096 -> TIMED_OUT" := by decide

/-! ## What meets the hypotheses of each statement

One theorem per statement with hypotheses: a state and operands that meet all of them, per clause where it has
several. -/

def isNext (o : Host.Outcome State Fault Refusal) : Bool :=
  match o with
  | .next _ => true
  | _ => false

theorem next_of_isNext {o : Host.Outcome State Fault Refusal} {s : State} (h : isNext o = true) :
    o = .next (after o s) := by
  cases o <;> simp_all [isNext, after]

/-- QUAD_READ with one alternate byte. -/
def altCfg : Cfg := withCat fun c => { c with quadRead := { c.quadRead with altSize := 1, altLines := 4 } }

/-- Four address bytes. -/
def wideCfg : Cfg := withCat fun c => { c with addressBytes := 4 }

/-- A small device, erased; PROGRAM of five bytes over two chunks, its buffer at 0x100. -/
def erasedFlash : List Host.Cell := bytesAt 0 (List.replicate 32 0xFF)
def buffer : List Host.Cell := bytesAt 0x100 [1, 2, 3, 4, 5]
def programState (m : Mode) (more : List Draw) : State :=
  smallState m ((if m = .mapped then [ok] else []) ++ wcmdOk ++ wcmdOk ++ more) erasedFlash buffer

/-- The second chunk's WIP wait is answered BUS_ERROR. -/
def failingState : State := smallState .indirect (wcmdOk ++ [ok, poll [2], ok, bus]) erasedFlash buffer

/-- The ABORT of a request is answered BUS_ERROR. -/
def abortFails : State := smallState .mapped [bus] erasedFlash buffer

/-- The host's next move. -/
def withMove (m : HostMove) (s : State) : State := { s with host := { s.host with moves := [m] } }

theorem test_meets_DecodeOfEncodeIsTheInstruction :
    tcfg.wf = true ∧ tcfg.cat.distinctOpcodes = true ∧ (Instr.pageProgram 0x00FFFFFF [0x11]).wf tcfg.cat = true ∧
      (Instr.sectorErase 0x00FFFFFF).wf tcfg.cat = true := by decide

/-- The last clause too, for each kind: a BUSCMD with opcode 0x07, which no kind has. -/
theorem test_meets_CallRecordsCarryTheirCommand :
    tcfg.wf = true ∧ tcfg.cat.distinctOpcodes = true ∧ (0x00000107 : Word) ≠ 0 ∧
      operandCmd tcfg.cat 0x00000107 0 0 0 [] = none ∧ (3 : Word).toNat ≤ 3 ∧
      decode tcfg.cat ⟨.xcall, [3, 0x00000107, 0, 0, 0], []⟩ = .error .foreignCommand := by decide

theorem test_foreign_commands :
    decode tcfg.cat ⟨.xcall, [0, 0x00000107, 0, 0, 0], []⟩ = .error .foreignCommand ∧
    decode tcfg.cat ⟨.xcall, [2, 0x00000107, 0, 0, 0], []⟩ = .error .foreignCommand ∧
    decode tcfg.cat ⟨.xcall, [1, 0x00000107, 0, 0, 0, 0x00000202, 16, 256], []⟩ = .error .foreignCommand := by decide

/-- No kind encodes to a BUSCMD with that word 0. -/
theorem test_meets_CallRecordsCarryTheirCommand_foreign (k kind : Kind) (a : Nat) (payload : List Byte) :
    { encodeCmd tcfg.cat k a payload with kind := kind } ≠
      { kind := kind, w0 := 0x00000107, w1 := 0, w2 := 0, w3 := 0, payload := [] } := by
  have h0 : encodeWord0 tcfg.cat k ≠ 0x00000107 := by cases k <;> decide
  exact fun h => h0 (congrArg BusCmd.w0 h)

theorem test_meets_IllegalRequestsAreAnswered :
    let s := withMove (.request ⟨0x00000012, 0, 0, 0, 0⟩ []) State.reset
    s.cfg.wf = true ∧ s.seq.pos = none ∧ s.host.moves = [.request ⟨0x00000012, 0, 0, 0, 0⟩ []] ∧
      decodeReq ⟨0x00000012, 0, 0, 0, 0⟩ = none ∧ decodeReq ⟨0x00000000, 0, 0, 0, 0⟩ = none ∧
      decodeReq ⟨0x00000006, 0, 0, 0, 0⟩ ≠ none ∧ decodeReq ⟨0x00000007, 0, 0, 0, 0⟩ = none ∧
      decodeReq ⟨0x00000016, 0, 0, 0, 0⟩ = none := by decide

theorem test_meets_UnusedRequestWordsAreIgnored :
    decodeReq ⟨1, 1, 2, 3, 4⟩ = decodeReq ⟨1, 5, 6, 7, 8⟩ ∧ decodeReq ⟨4, 1, 2, 3, 4⟩ = decodeReq ⟨4, 5, 6, 7, 8⟩ ∧
    decodeReq ⟨2, 1, 2, 3, 4⟩ = decodeReq ⟨2, 1, 2, 7, 4⟩ ∧ decodeReq ⟨3, 1, 2, 3, 4⟩ = decodeReq ⟨3, 1, 2, 7, 8⟩ ∧
    decodeReq ⟨5, 1, 2, 3, 4⟩ = decodeReq ⟨5, 1, 2, 3, 8⟩ ∧ decodeReq ⟨6, 1, 2, 3, 4⟩ ≠ decodeReq ⟨6, 1, 2, 3, 8⟩ := by
  decide

theorem test_meets_EncoderNeverProducesReserved :
    tcfg.wf = true ∧ altCfg.wf = true ∧ admodeField (encodeCmd tcfg.cat .reset 0 []).w0 = 0 ∧
      abmodeField (encodeCmd tcfg.cat .quadRead 0 []).w0 = 0 ∧ abmodeField (encodeCmd altCfg.cat .quadRead 0 []).w0 ≠ 0 := by
  decide

theorem test_meets_AddressAssemblyTruncates :
    tcfg.wf = true ∧ wideCfg.wf = true ∧ hasAddr .sectorErase = true ∧ tcfg.cat.addressBytes = 3 ∧
      (encodeCmd tcfg.cat .sectorErase 0x00FFFFFF []).w1 = 0x00FFFFFF ∧
      (encodeCmd tcfg.cat .sectorErase 0x01000000 []).w1 = 0 ∧
      (encodeCmd wideCfg.cat .sectorErase 0x01000000 []).w1 = 0x01000000 := by decide

theorem test_meets_RecordLengthFromWords :
    tcfg.wf = true ∧ ([0x11, 0x22] : List Byte).length < 2 ^ 32 ∧
      ddirField (encodeCmd tcfg.cat .pageProgram 0 [0x11, 0x22]).w0 = 2 ∧
      ddirField (encodeCmd tcfg.cat .readStatus 0 []).w0 ≠ 2 := by decide

/-- A failed PROGRAM, and a VERIFY that matches. -/
theorem test_meets_ResponseWordsLayout :
    let t := after (exec (.program 10 5 0x100) failingState) State.reset
    let u := after (exec (.verify 0 1 0 0x100) (smallState .mapped [] (bytesAt 0 [1, 2, 3, 4]) buffer)) State.reset
    isRequest (.program 10 5 0x100) = true ∧ isNext (exec (.program 10 5 0x100) failingState) = true ∧
      t.rsp.status = .busError ∧ u.rsp.status = .ok ∧ u.rsp.mmValid = false := by decide

theorem test_meets_InstructionOnlyCommandsEncode : State.reset.cfg.wf = true := by decide

theorem test_meets_ReadCommandsEncode :
    State.reset.cfg.wf = true ∧ State.reset.cfg.cat.quadRead.altSize = 0 ∧
      ({ State.reset with cfg := altCfg } : State).cfg.wf = true ∧ 1 ≤ altCfg.cat.quadRead.altSize := by decide

theorem test_meets_AddressedCommandsEncode : ({ State.reset with cfg := wideCfg } : State).cfg.wf = true := by decide

theorem test_meets_SendCompletes :
    let s (d : Draw) := state .indirect [d] [] []
    ∀ d ∈ [ok, bus], (s d).cfg.wf = true ∧ (s d).mode = .indirect ∧ ddirField (s d).seq.cmd.w0 ≠ 1 ∧
      (s d).dev.script = [d] := by decide

/-- The last clause on an erase: byte 0 is outside the sector it may change. -/
theorem test_meets_SendCompletes_erase :
    let s := state .indirect [ok] [] []
    let s := { s with seq := { s.seq with cmd := encodeCmd refcat .sectorErase 0x1000 [] } }
    (s.cfg.wf = true ∧ s.mode = .indirect ∧ ddirField s.seq.cmd.w0 ≠ 1 ∧ changesFlash s.seq.cmd.kind = true ∧
      unsettled s.dev 0 = false) ∧ untouched s.cfg [.send s.seq.cmd .ok] 0 := by
  refine ⟨by decide, fun cmd answer runs hm hr => ?_⟩
  obtain ⟨rfl, -⟩ : cmd = encodeCmd refcat .sectorErase 0x1000 [] ∧ answer = .ok := by simpa using hm
  rw [show commandSpan _ _ = some [(0x1000, 0x1000)] from rfl] at hr
  obtain rfl := Option.some.inj hr
  rfl

theorem test_meets_LatchGatesProgramAndErase :
    let s := state .indirect [poll [0]] [] []
    let u := state .indirect [ok] [] []
    let u := { u with
      seq := { u.seq with cmd := encodeCmd refcat .sectorErase 0x1000 [] }
      dev := { u.dev with wel := .clear, busy := .idle } }
    (∀ b ∈ [(0 : Byte), 2],
      let v := state .indirect [poll (List.replicate 17 b)] [] []
      let t := after (exec (.poll (welWait refcat)) v) v
      isNext (exec (.poll (welWait refcat)) v) = true ∧ t.pol.count ≠ 0 ∧ t.dev.wel = if b = 0 then .clear else .set) ∧
      s.cfg.wf = true ∧ u.cfg.wf = true ∧ u.mode = .indirect ∧ ddirField u.seq.cmd.w0 ≠ 1 ∧
      changesFlash u.seq.cmd.kind = true ∧ (after (exec .send u) u).seq.ret = .ok ∧
      (commandRuns u.cfg u.seq.cmd).all (inGeometry u.cfg) = true := by decide

theorem test_meets_ForbiddenCallsAreRefused :
    (state .mapped [] [] []).cfg.wf = true ∧ (state .mapped [] [] []).mode = .mapped ∧
    (let s := after (exec .readStatus (state .indirect [] [] [])) State.reset
     s.cfg.wf = true ∧ s.mode = .indirect ∧ ddirField s.seq.cmd.w0 = 1 ∧
       s.seq.cmd = encodeCmd s.cfg.cat .readStatus 0 []) ∧
    (let s := after (exec .quadRead (state .indirect [] [] [])) State.reset
     s.mode = .indirect ∧ s.seq.cmd = encodeCmd s.cfg.cat .quadRead 0 []) := by decide

theorem test_meets_PollAnswersExactly : State.reset.cfg.wf = true ∧ State.reset.mode = .indirect := by decide

theorem test_meets_PollFrame :
    let s := state .indirect [poll [0]] [] []
    exec (.poll (wipWait refcat 256)) s = .next (after (exec (.poll (wipWait refcat 256)) s) s) ∧
      unsettled s.dev 0 = false := ⟨next_of_isNext (by decide), by decide⟩

theorem test_meets_ComparatorCornerCases :
    (2 : Byte) &&& ~~~(1 : Byte) ≠ 0 ∧ (0 : Byte) &&& ~~~(0 : Byte) = 0 ∧ tcfg.wf = true ∧ (15 : Word) < 16 ∧
      pollBudget 16 15 = 1 ∧ pollBudget 16 16 = 2 ∧ pollBudget 0 0 = 1 ∧ pollBudget 0 1 = 2 := by decide

theorem test_meets_MapCompletes :
    ∀ d ∈ [ok, bus], (state .indirect [d] [] []).cfg.wf = true ∧ (state .indirect [d] [] []).dev.script = [d] := by decide

theorem test_meets_AbortCompletes :
    ∀ d ∈ [ok, bus], (state .mapped [d] [] []).cfg.wf = true ∧ (state .mapped [d] [] []).dev.script = [d] := by decide

theorem test_meets_ElementaryCommandCalls : State.reset.estate = .idle := by decide

theorem test_meets_ElementaryCommandIsItsLines :
    let s := state .indirect wcmdOk [] []
    changesFlash .sectorErase = true ∧ s.cfg.wf = true ∧ s.mode = .indirect ∧
      obliges (wcmdCalls s.cfg.cat 65536) s.dev.script = true := by decide

theorem test_meets_InitCompletes :
    let s := state .indirect [ok, ok, poll [1, 0]] [] []
    let t := state .mapped [ok, ok, ok, poll [0]] [] []
    s.cfg.wf = true ∧ obliges (initCalls s.cfg.cat s.mode) s.dev.script = true ∧
      t.cfg.wf = true ∧ obliges (initCalls t.cfg.cat t.mode) t.dev.script = true := by decide

theorem test_meets_InitOutcomes : State.reset.cfg.wf = true := by decide

theorem test_meets_ChunksPartitionTheRange :
    1 ≤ 256 ∧ chunkList 256 0 0 = [] ∧ chunkList 256 255 1 = [(255, 1)] ∧ chunkList 256 255 2 = [(255, 1), (256, 1)] ∧
      chunkList 1 5 2 = [(5, 1), (6, 1)] := by decide

theorem test_meets_ProgramIssuesItsChunks : ∀ m ∈ [Mode.indirect, .mapped],
    let s := programState m []
    (s.cfg.wf = true ∧ s.initDone = true ∧ (10 : Word).toNat + (5 : Word).toNat ≤ 2 ^ 32 - 1) ∧ (5 : Word) ≠ 0 ∧
      chunkList s.cfg.geom.pageSize.toNat 10 5 = [(10, 2), (12, 3)] ∧
      obliges (toggleCalls .indirect s.mode ++ (List.replicate 2 (wcmdCalls s.cfg.cat s.cfg.cat.tProgram)).flatten)
        s.dev.script = true := by decide

theorem test_meets_ProgramWritesItsRange : ∀ m ∈ [Mode.indirect, .mapped],
    let s := programState m []
    (s.cfg.wf = true ∧ s.initDone = true ∧ (10 : Word).toNat + (5 : Word).toNat ≤ 2 ^ 32 - 1) ∧ (5 : Word) ≠ 0 ∧
      (chunkList s.cfg.geom.pageSize.toNat 10 5).length = 2 ∧
      obliges (toggleCalls .indirect s.mode ++ (List.replicate 2 (wcmdCalls s.cfg.cat s.cfg.cat.tProgram)).flatten)
        s.dev.script = true ∧
      s.dev.busy = .idle ∧ 10 + 5 ≤ s.cfg.geom.totalSize.toNat ∧ 10 + 5 ≤ 2 ^ (8 * s.cfg.cat.addressBytes) ∧
      ∀ i, i < 5 → flashByte s.dev (10 + i) = s.cfg.geom.eraseValue := by decide

theorem test_meets_ProgramThenVerifyFindsNoMismatch : ∀ m ∈ [Mode.indirect, .mapped],
    let s := programState m [ok]
    (s.cfg.wf = true ∧ s.initDone = true ∧ (10 : Word).toNat + (5 : Word).toNat ≤ 2 ^ 32 - 1) ∧ (5 : Word) ≠ 0 ∧
      (chunkList s.cfg.geom.pageSize.toNat 10 5).length = 2 ∧
      obliges (toggleCalls .indirect s.mode
        ++ (List.replicate 2 (wcmdCalls s.cfg.cat s.cfg.cat.tProgram)).flatten ++ [.plain]) s.dev.script = true ∧
      s.dev.busy = .idle ∧ 10 + 5 ≤ s.cfg.geom.totalSize.toNat ∧ 10 + 5 ≤ 2 ^ (8 * s.cfg.cat.addressBytes) ∧
      ∀ i, i < 5 → flashByte s.dev (10 + i) = s.cfg.geom.eraseValue := by decide

theorem test_meets_PageProgramsStayInOnePage :
    isRequest (.program 10 5 0x100) = true ∧
      exec (.program 10 5 0x100) (programState .mapped [])
        = .next (after (exec (.program 10 5 0x100) (programState .mapped [])) State.reset) :=
  ⟨rfl, next_of_isNext (by decide)⟩

theorem test_meets_EraseRangeIssuesItsSectors :
    let s := smallState .mapped ([ok] ++ wcmdOk ++ wcmdOk) [] []
    s.cfg.wf = true ∧ s.initDone = true ∧ 9 + 7 ≤ 2 ^ 32 - 1 ∧ sectorList 8 9 7 = [8, 16] ∧
      obliges (toggleCalls .indirect s.mode
        ++ (List.replicate 2 (wcmdCalls s.cfg.cat s.cfg.cat.tSectorErase)).flatten) s.dev.script = true := by decide

/-- The last sector of the device, with `length = 0`. -/
theorem test_meets_EraseRangeErasesItsSectors :
    let s := smallState .indirect wcmdOk [] []
    s.cfg.wf = true ∧ s.initDone = true ∧ 31 + 0 ≤ 2 ^ 32 - 1 ∧ sectorList 8 31 0 = [24] ∧
      obliges (toggleCalls .indirect s.mode
        ++ (List.replicate 1 (wcmdCalls s.cfg.cat s.cfg.cat.tSectorErase)).flatten) s.dev.script = true ∧
      s.dev.busy = .idle ∧ floorTo 8 (31 + 0) + 8 ≤ s.cfg.geom.totalSize.toNat ∧
      31 + 0 < 2 ^ (8 * s.cfg.cat.addressBytes) := by decide

theorem test_meets_SectorErasesAreAligned :
    let s := smallState .indirect (wcmdOk ++ wcmdOk) [] []
    isRequest (.eraseRange 9 7) = true ∧ isRequest .eraseAll = true ∧
      exec (.eraseRange 9 7) s = .next (after (exec (.eraseRange 9 7) s) s) ∧
      exec .eraseAll s = .next (after (exec .eraseAll s) s) :=
  ⟨rfl, rfl, next_of_isNext (by decide), next_of_isNext (by decide)⟩

theorem test_meets_EraseAllErasesTheDevice :
    let s := smallState .mapped ([ok] ++ wcmdOk) [] []
    s.cfg.wf = true ∧ s.initDone = true ∧
      obliges (toggleCalls .indirect s.mode ++ wcmdCalls s.cfg.cat s.cfg.cat.tChipErase) s.dev.script = true ∧
      s.dev.busy = .idle := by decide

/-- Both forms of R199: `start = 1, length = 2` over-includes, `start = 1, length = 31` ends at the device's end. -/
theorem test_meets_ChecksumClosedForm :
    let s := smallState .indirect [ok] [] []
    s.cfg.wf = true ∧ s.initDone = true ∧ 1 + 31 ≤ 2 ^ 32 - 1 ∧
      obliges (toggleCalls .mapped s.mode) s.dev.script = true := by decide

theorem inv_smallState (m : Mode) (script : List Draw) (flash ram : List Host.Cell) (hf : memWf flash = true)
    (hr : memWf ram = true) (hb : ramInRange ram = true) : (smallState m script flash ram).Inv :=
  ⟨by show small.wf = true; decide, hf, hr, hb, rfl, rfl, fun _ => rfl⟩

theorem test_meets_ChecksumIsIdempotent :
    let s := smallState .mapped [ok, ok, ok] erasedFlash buffer
    let t := after (exec (.checksum 1 2 7) s) s
    let between := [Instr.verify 0 4 0 0x100, .abort, .writeEnable, .send, .map]
    let t' := after (runLines between t) s
    let u := after (exec (.checksum 1 2 7) t') s
    s.Inv ∧ exec (.checksum 1 2 7) s = .next t ∧ t.rsp.status = .ok ∧ runLines between t = .next t' ∧
      (sends t'.trace).map (fun x => x.1) = [0x00000106] ∧ exec (.checksum 1 2 7) t' = .next u ∧ u.rsp.status = .ok :=
  ⟨inv_smallState _ _ _ _ (by decide) (by decide) (by decide), next_of_isNext (by decide), by decide,
    next_of_isNext (by decide), by decide, next_of_isNext (by decide), by decide⟩

/-- Both outcomes: equal over the range, and a first difference at index 1. -/
theorem test_meets_VerifyDecides :
    let s := smallState .mapped [] erasedFlash (bytesAt 0x100 [0xFF, 0xFF, 0xFF, 0xFF])
    let u := smallState .mapped [] erasedFlash (bytesAt 0x100 [0xFF, 0, 0xFF, 0])
    s.cfg.wf = true ∧ s.initDone = true ∧ 28 + 4 ≤ 2 ^ 32 - 1 ∧ obliges (toggleCalls .mapped s.mode) s.dev.script = true ∧
      (∀ i, i < 4 → windowByte s.cfg s.dev (28 + i) = bufferByte s.host.ram 0x100 i) ∧
      windowByte u.cfg u.dev 28 = bufferByte u.host.ram 0x100 0 ∧
      windowByte u.cfg u.dev 29 ≠ bufferByte u.host.ram 0x100 1 := by decide

theorem test_meets_ByteReadIsItsLane :
    let s := smallState .mapped [ok, poll [0], ok] erasedFlash buffer
    let between := [Instr.verify 0 4 0 0x100, .abort, .poll (wipWait refcat 256), .map]
    s.Inv ∧ s.mode = .mapped ∧ runLines between s = .next (after (runLines between s) s) ∧
      sends (after (runLines between s) s).trace = [] :=
  ⟨inv_smallState _ _ _ _ (by decide) (by decide) (by decide), rfl, next_of_isNext (by decide), by decide⟩

theorem test_meets_WindowReadsAreAligned :
    let s := smallState .mapped [] erasedFlash buffer
    exec (.verify 9 3 0 0x100) s = .next (after (exec (.verify 9 3 0 0x100) s) s) ∧
      .memRd 8 [0xFF, 0xFF, 0xFF, 0xFF] ∈ (after (exec (.verify 9 3 0 0x100) s) s).trace ∧
      .memRd 9 [0xFF] ∈ (after (exec (.verify 9 3 0 0x100) s) s).trace :=
  ⟨next_of_isNext (by decide), by decide, by decide⟩

theorem test_meets_ZeroLengthRequestsDoNothing :
    let s := state .mapped [] [] []
    s.cfg.wf = true ∧ s.initDone = true ∧ s.estate = .idle ∧ s.curOp = 0 := by decide

theorem test_meets_RequestsBeforeInitAreRefused :
    isRequest .eraseAll = true ∧ Instr.eraseAll ≠ .init ∧ State.reset.cfg.wf = true ∧ State.reset.initDone = false := by
  decide

/-- The first range R63 refuses, and the last it admits. -/
theorem test_meets_OverflowingRangesAreRefused :
    let s := state .indirect [] [] []
    s.cfg.wf = true ∧ s.initDone = true ∧ 2 ^ 32 - 1 < (0xFFFFFFFF : Word).toNat + (1 : Word).toNat ∧
      ¬ 2 ^ 32 - 1 < (0xFFFFFFFE : Word).toNat + (1 : Word).toNat := by decide

theorem test_meets_ConfigurationIsFixed :
    let bad : State := { State.reset with cfg := withCat fun c => { c with wipBit := 0 } }
    bad.cfg.wf = false ∧ step State.reset = .next State.reset := ⟨by decide, rfl⟩

theorem test_meets_FirstFailureEndsTheRequest :
    let s := failingState
    let t := after (exec (.program 10 5 0x100) s) s
    isRequest (.program 10 5 0x100) = true ∧ exec (.program 10 5 0x100) s = .next t ∧
      t.trace.getLast?.bind eventAnswer = some .busError := ⟨rfl, next_of_isNext (by decide), by decide⟩

/-- Each request in its turn: its first call is answered BUS_ERROR. -/
theorem test_meets_FailureReport :
    ∀ i ∈ [Instr.init, .program 10 5 0x100, .eraseRange 9 7, .eraseAll, .checksum 1 2 0, .verify 1 2 0 0x100],
      let s := smallState (if i = .checksum 1 2 0 ∨ i = .verify 1 2 0 0x100 then .indirect else .mapped) [bus] [] []
      isRequest i = true ∧ isNext (exec i s) = true ∧ (after (exec i s) s).rsp.status ≠ .ok := by decide

theorem test_meets_FailedProgramReportsItsChunk :
    ∀ s ∈ [failingState, abortFails],
      isNext (exec (.program 10 5 0x100) s) = true ∧ (after (exec (.program 10 5 0x100) s) s).rsp.status ≠ .ok ∧
        s.dev.busy = .idle ∧ 10 + 5 ≤ s.cfg.geom.totalSize.toNat ∧ 10 + 5 ≤ 2 ^ (8 * s.cfg.cat.addressBytes) ∧
        ∀ i, i < 5 → flashByte s.dev (10 + i) = s.cfg.geom.eraseValue := by decide

theorem test_meets_FailedEraseReportsItsSector :
    ∀ s ∈ [failingState, abortFails],
      isNext (exec (.eraseRange 9 7) s) = true ∧ (after (exec (.eraseRange 9 7) s) s).rsp.status ≠ .ok := by decide

/-- Every instruction has a next state in some mode. -/
theorem test_meets_RegisterFrames :
    ∀ i ∈ [Instr.init, .program 10 5 0x100, .eraseRange 9 7, .eraseAll, .checksum 1 2 0, .verify 1 2 0 0x100,
        .resetEnable, .reset, .writeEnable, .readStatus, .pageProgram 10 [1], .sectorErase 8, .chipErase, .quadRead,
        .enter4Byte, .send, .poll (welWait refcat), .map, .abort],
      isNext (exec i (programState .indirect [])) = true := by decide

theorem test_meets_StoredBytesFrame :
    let s := programState .indirect []
    let t := after (exec (.program 10 5 0x100) s) s
    exec (.program 10 5 0x100) s = .next t ∧ unsettled s.dev 15 = false ∧
      ∀ e ∈ t.trace, (match e with
        | .send cmd _ => (match commandSpan s.cfg cmd with
          | some runs => inRuns runs 15 == false && inRuns runs 9 == false
          | none => true)
        | _ => true) = true := ⟨next_of_isNext (by decide), by decide, by decide⟩

theorem test_meets_RequestsReadNoEarlierRegister :
    isRequest (.checksum 1 2 0) = true ∧ isNext (exec (.checksum 1 2 0) (smallState .mapped [] [] [])) = true := by decide

theorem test_meets_ReadingLeavesTheDevice :
    formatOf .quadRead = .busCmd ∧ isNext (exec .quadRead State.reset) = true ∧
      isNext (exec (.checksum 1 2 0) (smallState .mapped [] [] [])) = true ∧ isNext (exec .map State.reset) = true := by
  decide

theorem test_meets_ModeDiscipline :
    isRequest (.verify 1 2 0 0x100) = true ∧
      isNext (exec (.verify 1 2 0 0x100) (smallState .indirect [ok] erasedFlash buffer)) = true := by decide

/-- PROGRAM and CHECKSUM in MAPPED, VERIFY in INDIRECT, with OK responses; `length = 1`. -/
theorem test_meets_ModeSequences :
    let s := programState .mapped []
    let u := smallState .indirect [ok] erasedFlash buffer
    s.mode = .mapped ∧ (after (exec (.program 10 1 0x100) s) s).rsp.status = .ok ∧
      (after (exec (.checksum 10 1 0) s) s).rsp.status = .ok ∧ (after (exec (.eraseRange 9 7) s) s).rsp.status = .ok ∧
      u.mode = .indirect ∧ (after (exec (.verify 1 1 0 0x100) u) u).rsp.status = .ok ∧
      (after (exec .init (state .indirect [ok, ok, poll [0]] [] [])) s).rsp.status = .ok := by decide

theorem test_meets_WriteEnableAndCompletionBarrier :
    let s := smallState .indirect wcmdOk [] []
    let t := after (exec .eraseAll s) s
    isRequest .eraseAll = true ∧ exec .eraseAll s = .next t ∧
      t.trace[2]? = some (.send (encodeCmd s.cfg.cat .chipErase 0 []) .ok) ∧ changesFlash .chipErase = true :=
  ⟨rfl, next_of_isNext (by decide), by decide, rfl⟩

theorem test_meets_EstateFollowsItsTable :
    let s := withMove (.request ⟨4, 0, 0, 0, 0⟩ []) (smallState .indirect wcmdOk [] [])
    step s = .next (after (step s) s) ∧ s.estate = .idle ∧ (after (step s) s).esLog.length = 4 :=
  ⟨next_of_isNext (by decide), by decide, by decide⟩

theorem test_meets_StepKeepsTheInvariant :
    let s := withMove (.request ⟨2, 10, 5, 0, 0x100⟩ [(0x100, 7)]) (programState .indirect [])
    s.Inv ∧ step s = .next (after (step s) s) :=
  ⟨⟨by decide, by decide, by decide, by decide, rfl, rfl, fun _ => rfl⟩, next_of_isNext (by decide)⟩

theorem test_meets_TraceOnlyGrows :
    let s := withMove (.request ⟨4, 0, 0, 0, 0⟩ []) (smallState .indirect wcmdOk [] [])
    step s = .next (after (step s) s) ∧ (after (step s) s).trace.length = 4 := ⟨next_of_isNext (by decide), by decide⟩

theorem test_meets_BlockResetSetsTheBlock :
    let s := withMove .blockReset (state .mapped [] [] [])
    s.cfg.wf = true ∧ s.seq.pos = none ∧ s.host.moves = [.blockReset] ∧ s.mode = .mapped ∧ s.initDone = true := by decide

theorem test_meets_StepRunsTheDecodedInstruction :
    let s : State := { State.reset with seq := { State.reset.seq with pos := some ⟨.xcall, [3], []⟩ } }
    let u := withMove (.request ⟨1, 0, 0, 0, 0⟩ [(0x100, 7)]) State.reset
    s.cfg.wf = true ∧ s.seq.pos = some ⟨.xcall, [3], []⟩ ∧ decode s.cfg.cat ⟨.xcall, [3], []⟩ = .ok .abort ∧
      u.seq.pos = none ∧ u.host.moves = [.request ⟨1, 0, 0, 0, 0⟩ [(0x100, 7)]] ∧
      decodeReq ⟨1, 0, 0, 0, 0⟩ = some .init := by decide

theorem test_meets_RequestTextReadsBack :
    requestText (.program 0 0xFFFFFFFF 0x10) = some "PROGRAM 0x0, 0xFFFFFFFF, 0x10" ∧
      requestText (.verify 0xFE 4 0 0x2000) = some "VERIFY 0xFE, 0x4, 0x0, 0x2000" := by decide

end Sys2Proof.Tests
end

section
/-! PROOFS of the family 00_scope: what every step keeps (R4, R10, R20, R23, R24, R65, R265), what the reading
instructions leave of the device (R14, R34, R59, R104), and which instruction a step runs (R3, R24, R225). -/

namespace Sys2Proof.Machine

/-! ## The instruction a step runs -/

theorem step_of_pos {s : State} {r : Record} {i : Instr} (hw : s.cfg.wf = true) (hp : s.seq.pos = some r)
    (hd : decode s.cfg.cat r = .ok i) : step s = exec i (leaveLine r s) := by
  simp [step, hw, hp, hd]

theorem step_of_request {s : State} {req : HostReq} {buffer : List (Word × Byte)} {moves : List HostMove} {i : Instr}
    (hw : s.cfg.wf = true) (hp : s.seq.pos = none) (hm : s.host.moves = .request req buffer :: moves)
    (hd : decodeReq req = some i) : step s = exec i (takeMove moves buffer s) := by
  simp [step, hw, hp, hm, hd]

/-- Settles O57: at a line and at a request, `step` is `exec` of what the decoder answers. -/
theorem stepRunsTheDecodedInstruction : Obligations.StepRunsTheDecodedInstruction := fun _ _ hw =>
  ⟨fun _ => step_of_pos hw, fun _ _ _ => step_of_request hw⟩

/-! ## What every step extends: the configuration stays, the trace and the counter of draws grow -/

/-- `t` comes after `s`: the same configuration, a longer bus trace, a later draw (R4, R20, R65). -/
structure Extends (s t : State) : Prop where
  cfg : t.cfg = s.cfg
  trace : s.trace <+: t.trace
  tick : s.dev.tick ≤ t.dev.tick

theorem Extends.refl (s : State) : Extends s s := ⟨rfl, List.prefix_rfl, Nat.le_refl _⟩

theorem Extends.trans {s t u : State} (h : Extends s t) (k : Extends t u) : Extends s u :=
  ⟨k.cfg.trans h.cfg, h.trace.trans k.trace, h.tick.trans k.tick⟩

theorem extends_of_prim {b : Bool} {s t : State} (h : Prim b s t) : Extends s t := by
  cases h with
  | send | poll | map | abort | memRead | ramRead => exact ⟨rfl, ⟨_, rfl⟩, by simp⟩
  | regs _ _ cfg _ _ dev _ trace => exact ⟨cfg, by rw [trace], by rw [dev]⟩

theorem extends_of_steps {b : Bool} {s t : State} (h : Steps b s t) : Extends s t := by
  induction h with
  | refl => exact .refl s
  | tail _ hp ih => exact ih.trans (extends_of_prim hp)

theorem exec_extends {i : Instr} {s t : State} (h : exec i s = .next t) : Extends s t :=
  extends_of_steps (exec_steps h)

theorem leaveLine_extends (r : Record) (s : State) : Extends s (leaveLine r s) :=
  ⟨rfl, List.prefix_rfl, Nat.le_refl _⟩

theorem takeMove_extends (ms : List HostMove) (buffer : List (Word × Byte)) (s : State) :
    Extends s (takeMove ms buffer s) := ⟨rfl, List.prefix_rfl, Nat.le_refl _⟩

theorem blockReset_extends (s : State) : Extends s (blockReset s) := ⟨rfl, List.prefix_rfl, Nat.le_succ _⟩

theorem illegalResponse_extends (s : State) : Extends s (illegalResponse s) :=
  ⟨rfl, List.prefix_rfl, Nat.le_refl _⟩

theorem step_extends {s t : State} (h : step s = .next t) : Extends s t := by
  obtain ⟨_, ⟨r, i, -, -, hx⟩ | ⟨-, -, rfl⟩ | ⟨ms, -, -, rfl⟩ | ⟨req, buffer, ms, i, -, -, -, hx⟩ |
    ⟨req, buffer, ms, -, -, -, rfl⟩⟩ := step_cases h
  · exact (leaveLine_extends r s).trans (exec_extends hx)
  · exact .refl _
  · exact (takeMove_extends ms [] s).trans (blockReset_extends _)
  · exact (takeMove_extends ms buffer s).trans (exec_extends hx)
  · exact (takeMove_extends ms buffer s).trans (illegalResponse_extends _)

/-- Settles O55: from `step_extends`, one case per primitive. -/
theorem traceOnlyGrows : Obligations.TraceOnlyGrows := fun _ _ h =>
  ⟨(step_extends h).trace, (step_extends h).tick⟩

/-! ## A configuration that is not well formed -/

theorem runRequest_of_not_wf {s : State} (hw : s.cfg.wf = false) (op : BitVec 4) (needsInit : Bool) (extent : Nat)
    (body : State → State) : runRequest op needsInit extent body s = .refused .badConfig := by
  simp [runRequest, requestRefusal, hw]

theorem runLine_of_not_wf {s : State} (hw : s.cfg.wf = false) (refusal : Option Refusal) (body : State → State) :
    runLine refusal body s = .refused .badConfig := by
  simp [runLine, hw]

theorem step_of_not_wf {s : State} (hw : s.cfg.wf = false) : step s = .refused .badConfig := by
  simp [step, hw]

/-- A bus command is a line that encodes (R104). -/
theorem exec_busCmd {i : Instr} (h : formatOf i = .busCmd) :
    ∃ k a p, ∀ s, exec i s = runLine none (encodeOp k a p) s := by
  cases i with
  | resetEnable => exact ⟨_, _, _, exec_resetEnable⟩
  | reset => exact ⟨_, _, _, exec_reset⟩
  | writeEnable => exact ⟨_, _, _, exec_writeEnable⟩
  | readStatus => exact ⟨_, _, _, exec_readStatus⟩
  | pageProgram offset payload => exact ⟨_, _, _, exec_pageProgram offset payload⟩
  | sectorErase offset => exact ⟨_, _, _, exec_sectorErase offset⟩
  | chipErase => exact ⟨_, _, _, exec_chipErase⟩
  | quadRead => exact ⟨_, _, _, exec_quadRead⟩
  | enter4Byte => exact ⟨_, _, _, exec_enter4Byte⟩
  | init | program | eraseRange | eraseAll | checksum | verify | send | poll | map | abort => cases h

theorem exec_of_not_wf (i : Instr) {s : State} (hw : s.cfg.wf = false) : exec i s = .refused .badConfig := by
  by_cases hb : formatOf i = .busCmd
  · obtain ⟨k, a, p, e⟩ := exec_busCmd hb
    exact (e s).trans (runLine_of_not_wf hw _ _)
  · cases i with
    | init | program | eraseRange | eraseAll | checksum | verify => exact runRequest_of_not_wf hw _ _ _ _
    | send => exact (exec_send s).trans (runLine_of_not_wf hw _ _)
    | poll spec => exact (exec_poll spec s).trans (runLine_of_not_wf hw _ _)
    | map => exact (exec_map s).trans (runLine_of_not_wf hw _ _)
    | abort => exact (exec_abort s).trans (runLine_of_not_wf hw _ _)
    | resetEnable | reset | writeEnable | readStatus | pageProgram | sectorErase | chipErase | quadRead
    | enter4Byte => exact absurd rfl hb

/-- Settles O40: `runRequest` and `runLine` check the configuration first, and `step_extends` says it is kept. -/
theorem configurationIsFixed : Obligations.ConfigurationIsFixed :=
  ⟨fun i _ hw => ⟨exec_of_not_wf i hw, step_of_not_wf hw⟩, fun _ _ h => (step_extends h).cfg⟩

/-! ## What reading leaves -/

/-- Two devices with the same stored bytes, unfinished commands, latch and counter of program and erase commands. -/
structure SameContents (d e : Device) : Prop where
  flash : e.flash = d.flash
  inflight : e.inflight = d.inflight
  wel : e.wel = d.wel
  epoch : e.epoch = d.epoch

theorem SameContents.refl (d : Device) : SameContents d d := ⟨rfl, rfl, rfl, rfl⟩

theorem SameContents.trans {d e f : Device} (h : SameContents d e) (k : SameContents e f) : SameContents d f :=
  ⟨k.flash.trans h.flash, k.inflight.trans h.inflight, k.wel.trans h.wel, k.epoch.trans h.epoch⟩

theorem SameContents.windowByte {d e : Device} (h : SameContents d e) (cfg : Cfg) (a : Nat) :
    windowByte cfg e a = windowByte cfg d a :=
  windowByte_congr (flashByte_congr h.flash h.inflight a) h.epoch

theorem SameContents.quiet {d e : Device} (h : SameContents d e) : e.quiet = d.quiet := by
  simp only [Device.quiet, h.inflight]

@[simp] theorem windowByte_disturb (cfg : Cfg) (d : Device) (a : Nat) :
    windowByte cfg (disturb d) a = windowByte cfg d a :=
  windowByte_congr (flashByte_disturb d a) rfl

@[simp] theorem quiet_disturb (d : Device) : (disturb d).quiet = true := by
  simp [Device.quiet, forget]

theorem map_forget_of_quiet {d : Device} (h : d.quiet = true) : d.inflight.map forget = d.inflight := by
  have hk : ∀ op ∈ d.inflight, op.known = false := by simpa [Device.quiet] using h
  calc d.inflight.map forget = d.inflight.map id :=
        List.map_congr_left fun op hop => by rw [forget, ← hk op hop]; rfl
    _ = d.inflight := List.map_id _

/-- `t` is reached from `s` with no transport call: MODE and the device's contents are kept. -/
structure OnlyReads (s t : State) : Prop where
  mode : t.mode = s.mode
  dev : SameContents s.dev t.dev

theorem OnlyReads.refl (s : State) : OnlyReads s s := ⟨rfl, .refl _⟩

theorem OnlyReads.trans {s t u : State} (h : OnlyReads s t) (k : OnlyReads t u) : OnlyReads s u :=
  ⟨k.mode.trans h.mode, h.dev.trans k.dev⟩

theorem onlyReads_of_dev_eq {s t : State} (hm : t.mode = s.mode) (hd : t.dev = s.dev) : OnlyReads s t :=
  ⟨hm, hd ▸ .refl _⟩

theorem onlyReads_memReadOp (a n : Nat) (s : State) : OnlyReads s (memReadOp a n s) := ⟨rfl, rfl, rfl, rfl, rfl⟩

theorem onlyReads_respond (r : Response) (s : State) : OnlyReads s (respond r s) :=
  onlyReads_of_dev_eq (respond_mode r s) (respond_dev r s)

theorem onlyReads_checksumWord (s : State) : OnlyReads s (checksumWord s) := ⟨rfl, rfl, rfl, rfl, rfl⟩

theorem onlyReads_checksumLoop (n : Nat) (s : State) : OnlyReads s (checksumLoop n s) := by
  induction n generalizing s with
  | zero => exact .refl s
  | succ n ih =>
    unfold checksumLoop
    split_ifs
    · exact (onlyReads_checksumWord s).trans (ih _)
    · exact .refl s

theorem onlyReads_checksumCore (start length seed : Word) (s : State) :
    OnlyReads s (checksumCore start length seed s) :=
  have hstart : OnlyReads s (checksumStart start length seed s) := onlyReads_of_dev_eq rfl rfl
  hstart.trans (onlyReads_checksumLoop _ _)

/-- `t` is reached from `s` with no transport call, and ends in a response (R15). -/
def ReadsThenResponds (s t : State) : Prop := ∃ r u, t = respond r u ∧ OnlyReads s u

theorem ReadsThenResponds.onlyReads {s t : State} (h : ReadsThenResponds s t) : OnlyReads s t := by
  obtain ⟨r, u, rfl, hu⟩ := h
  exact hu.trans (onlyReads_respond r u)

theorem OnlyReads.readsThenResponds {s t u : State} (h : OnlyReads s t) (k : ReadsThenResponds t u) :
    ReadsThenResponds s u := by
  obtain ⟨r, v, e, hv⟩ := k
  exact ⟨r, v, e, h.trans hv⟩

theorem readsThenResponds_respond (r : Response) (s : State) : ReadsThenResponds s (respond r s) := ⟨r, s, rfl, .refl s⟩

theorem readsThenResponds_fail (k : Status) (a : Word) (s : State) : ReadsThenResponds s (fail k a s) :=
  ⟨_, _, rfl, onlyReads_of_dev_eq (setEState_mode _ s) (setEState_dev _ s)⟩

/-- VERIFY's loop (R205). -/
theorem readsThenResponds_verifyLoop (start buf ck : Word) (n : Nat) (s : State) :
    ReadsThenResponds s (verifyLoop start buf ck n s) := by
  induction n generalizing s with
  | zero => exact readsThenResponds_respond _ s
  | succ n ih =>
    have hread := onlyReads_memReadOp (start + s.vfy.vidx).toNat 1 s
    unfold verifyLoop
    simp only
    split_ifs
    · refine hread.readsThenResponds (OnlyReads.readsThenResponds ?_ (ih _))
      exact onlyReads_of_dev_eq rfl rfl
    · refine hread.readsThenResponds (OnlyReads.readsThenResponds ?_ (readsThenResponds_respond _ _))
      exact onlyReads_of_dev_eq rfl rfl

/-- A request that maps the window first makes at most one call, a MAP (R184). -/
theorem readsThenResponds_ensureMapped {f : State → State} (hf : ∀ t, ReadsThenResponds t (f t)) (ea : Word) (s : State) :
    ReadsThenResponds s (finish (ensureMapped ea s) f) ∨
      ReadsThenResponds (mapOp s) (finish (ensureMapped ea s) f) := by
  obtain ⟨-, e⟩ | ⟨-, -, e⟩ | ⟨-, -, e⟩ := ensureMapped_cases ea s <;> rw [e]
  · exact .inl (hf s)
  · exact .inr (hf (mapOp s))
  · exact .inr (readsThenResponds_fail _ _ _)

theorem checksumBody_reads (start length seed : Word) (s : State) :
    ReadsThenResponds s (checksumBody start length seed s) ∨
      ReadsThenResponds (mapOp s) (checksumBody start length seed s) := by
  unfold checksumBody
  split_ifs
  · exact .inl (readsThenResponds_respond _ s)
  · exact readsThenResponds_ensureMapped
      (fun t => (onlyReads_checksumCore start length seed t).readsThenResponds (readsThenResponds_respond _ _)) _ s

theorem verifyBody_reads (start length seed buf : Word) (s : State) :
    ReadsThenResponds s (verifyBody start length seed buf s) ∨
      ReadsThenResponds (mapOp s) (verifyBody start length seed buf s) := by
  unfold verifyBody
  split_ifs
  · exact .inl (readsThenResponds_respond _ s)
  · refine readsThenResponds_ensureMapped (fun t => ?_) _ s
    have hstart : OnlyReads t (verifyStart (checksumCore start length seed t)) :=
      (onlyReads_checksumCore start length seed t).trans (onlyReads_of_dev_eq rfl rfl)
    exact hstart.readsThenResponds (readsThenResponds_verifyLoop _ _ _ _ _)

theorem sameContents_mapOp (s : State) : SameContents (disturb s.dev) (mapOp s).dev := ⟨rfl, rfl, rfl, rfl⟩

theorem sameContents_abortOp (s : State) : SameContents s.dev (abortOp s).dev := ⟨rfl, rfl, rfl, rfl⟩

/-- A request that only reads, but for a MAP, does to the device's contents at most what that MAP does. -/
theorem sameContents_of_readingRequest {op : BitVec 4} {needsInit : Bool} {extent : Nat} {body : State → State}
    {s t : State} (hb : ∀ s, ReadsThenResponds s (body s) ∨ ReadsThenResponds (mapOp s) (body s))
    (h : runRequest op needsInit extent body s = .next t) :
    SameContents s.dev t.dev ∨ SameContents (disturb s.dev) t.dev := by
  obtain ⟨-, rfl⟩ := runRequest_eq_next.1 h
  rw [← accept_dev op s]
  obtain hr | hr := hb (accept op s)
  · exact .inl hr.onlyReads.dev
  · exact .inr ((sameContents_mapOp _).trans hr.onlyReads.dev)

/-- A bus command writes the sequencer's `cmd` alone (R104). -/
theorem exec_busCmd_next {i : Instr} {s t : State} (hi : formatOf i = .busCmd) (h : exec i s = .next t) :
    ∃ k a p, t = encodeOp k a p s := by
  obtain ⟨k, a, p, e⟩ := exec_busCmd hi
  exact ⟨k, a, p, (runLine_eq_next.1 ((e s).symm.trans h)).2.2⟩

/-- The instructions that never send a program or erase: only a MAP among them disturbs the device (log 8). -/
theorem sameContents_of_reading {i : Instr} {s t : State} (h : exec i s = .next t)
    (hi : (∃ start length seed, i = .checksum start length seed) ∨
      (∃ start length seed buf, i = .verify start length seed buf) ∨ i = .map ∨ i = .abort ∨ formatOf i = .busCmd) :
    SameContents s.dev t.dev ∨ (i ≠ .abort ∧ formatOf i ≠ .busCmd ∧ SameContents (disturb s.dev) t.dev) := by
  obtain ⟨start, length, seed, rfl⟩ | ⟨start, length, seed, buf, rfl⟩ | rfl | rfl | hi := hi
  · exact (sameContents_of_readingRequest (checksumBody_reads start length seed) h).imp_right
      fun hd => ⟨by simp, by simp [formatOf], hd⟩
  · exact (sameContents_of_readingRequest (verifyBody_reads start length seed buf) h).imp_right
      fun hd => ⟨by simp, by simp [formatOf], hd⟩
  · obtain ⟨-, -, rfl⟩ := runLine_eq_next.1 ((exec_map s).symm.trans h)
    exact .inr ⟨by simp, by simp [formatOf], sameContents_mapOp s⟩
  · obtain ⟨-, -, rfl⟩ := runLine_eq_next.1 ((exec_abort s).symm.trans h)
    exact .inl (sameContents_abortOp s)
  · obtain ⟨k, a, p, rfl⟩ := exec_busCmd_next hi h
    exact .inl (.refl s.dev)

/-- Settles O48: the contents are those before, or those with every unfinished result forgotten (a MAP), which shows
the same bytes. -/
theorem readingLeavesTheDevice : Obligations.ReadingLeavesTheDevice := by
  intro i s t h hi
  rw [(exec_extends h).cfg]
  obtain hd | ⟨ha, hf, hd⟩ := sameContents_of_reading h hi
  · exact ⟨hd.flash, hd.wel, hd.epoch, hd.windowByte s.cfg, .inl hd.inflight, fun _ => hd.inflight⟩
  · refine ⟨hd.flash, hd.wel, hd.epoch, fun a => ?_, .inr hd.inflight, ?_⟩
    · rw [hd.windowByte, windowByte_disturb]
    · rintro (rfl | hb | hq)
      · exact absurd rfl ha
      · exact absurd hb hf
      · exact hd.inflight.trans (map_forget_of_quiet hq)

/-! ## What every step keeps: the memories -/

/-- The part of the invariant that holds inside a request too: the configuration and the memories (R10, R36). -/
def MemoriesOk (s : State) : Prop :=
  s.cfg.wf = true ∧ memWf s.dev.flash = true ∧ memWf s.host.ram = true ∧ ramInRange s.host.ram = true

theorem memoriesOk_of_eq {s t : State} (hc : t.cfg = s.cfg) (hf : t.dev.flash = s.dev.flash)
    (hr : t.host.ram = s.host.ram) (h : MemoriesOk s) : MemoriesOk t := by
  rwa [MemoriesOk, hc, hf, hr]

theorem memoriesOk_of_prim {b : Bool} {s t : State} (h : Prim b s t) (hs : MemoriesOk s) : MemoriesOk t := by
  cases h with
  | send =>
    obtain ⟨hc, hf, hr, hi⟩ := hs
    exact ⟨hc, memWf_deviceSend _ _ _ hf, hr, hi⟩
  | poll spec => exact memoriesOk_of_eq (s := s) rfl (by simp) rfl hs
  | map | abort | memRead | ramRead => exact hs
  | regs _ _ cfg _ _ dev host => exact memoriesOk_of_eq cfg (by rw [dev]) (by rw [host]) hs

theorem exec_memoriesOk {i : Instr} {s t : State} (h : exec i s = .next t) (hs : MemoriesOk s) : MemoriesOk t := by
  have hsteps := exec_steps h
  clear h
  induction hsteps with
  | refl => exact hs
  | tail _ hp ih => exact memoriesOk_of_prim hp ih

theorem memoriesOk_takeMove {s : State} (hs : MemoriesOk s) (ms : List HostMove) (buffer : List (Word × Byte)) :
    MemoriesOk (takeMove ms buffer s) := by
  obtain ⟨hc, hf, hr, hi⟩ := hs
  exact ⟨hc, hf, memWf_ramStore hr buffer, ramInRange_ramStore hi buffer⟩

/-! ## What every step keeps: no request in progress, and a quiet device behind a mapped window -/

/-- No command is in execution while the window is mapped (R265). -/
def QuietWhenMapped (s : State) : Prop := s.mode = .mapped → s.dev.quiet = true

/-- What a request leaves: it is over, and the device is quiet if the window is mapped (R15, R23, R24, R265). -/
def AtRest (s : State) : Prop := s.estate = .idle ∧ s.curOp = 0 ∧ QuietWhenMapped s

theorem inv_iff (s : State) : s.Inv ↔ MemoriesOk s ∧ AtRest s := by
  simp only [State.Inv, MemoriesOk, AtRest, QuietWhenMapped, and_assoc]

theorem quietWhenMapped_of_indirect {s : State} (h : s.mode = .indirect) : QuietWhenMapped s := by
  simp [QuietWhenMapped, h]

theorem quietWhenMapped_of_onlyReads {s t : State} (h : OnlyReads s t) (hs : QuietWhenMapped s) :
    QuietWhenMapped t := by
  rwa [QuietWhenMapped, h.mode, h.dev.quiet]

theorem quietWhenMapped_of_eq {s t : State} (hm : t.mode = s.mode) (hd : t.dev = s.dev) (hs : QuietWhenMapped s) :
    QuietWhenMapped t := quietWhenMapped_of_onlyReads (onlyReads_of_dev_eq hm hd) hs

/-- A MAP makes every unfinished result unknown, so none is awaited (log 8). -/
theorem quietWhenMapped_mapOp (s : State) : QuietWhenMapped (mapOp s) := fun _ =>
  (sameContents_mapOp s).quiet.trans (quiet_disturb _)

/-- An ABORT that fails leaves the device as it was; one that succeeds unmaps the window (R181). -/
theorem quietWhenMapped_abortOp {s : State} (hs : QuietWhenMapped s) : QuietWhenMapped (abortOp s) := by
  intro hm
  rw [(sameContents_abortOp s).quiet]
  refine hs ?_
  rw [abortOp_mode] at hm
  split_ifs at hm
  exact hm

theorem abortOp_mode_of_ok {s : State} (h : (abortOp s).seq.ret = .ok) : (abortOp s).mode = .indirect := if_pos h

theorem atRest_respond {s : State} (hs : QuietWhenMapped s) (r : Response) : AtRest (respond r s) :=
  ⟨respond_estate r s, respond_curOp r s, quietWhenMapped_of_eq (respond_mode r s) (respond_dev r s) hs⟩

theorem atRest_fail {s : State} (hs : QuietWhenMapped s) (k : Status) (a : Word) : AtRest (fail k a s) :=
  ⟨fail_estate k a s, fail_curOp k a s, quietWhenMapped_of_eq (fail_mode k a s) (fail_dev k a s) hs⟩

theorem atRest_of_readsThenResponds {s t : State} (h : ReadsThenResponds s t) (hs : QuietWhenMapped s) : AtRest t := by
  obtain ⟨r, u, rfl, hu⟩ := h
  exact atRest_respond (quietWhenMapped_of_onlyReads hu hs) r

/-! ### Runs of a request -/

/-- `P` holds where the run goes on; a run that has ended (R15) is at rest. -/
def Run.Meets (P : State → Prop) : Run → Prop
  | .going s => P s
  | .ended s => AtRest s

/-- MODE = INDIRECT, as every Send and Poll needs it (R21). -/
def IsIndirect (s : State) : Prop := s.mode = .indirect

theorem isIndirect_of_ne_mapped {s : State} (h : s.mode ≠ .mapped) : IsIndirect s := by
  cases hm : s.mode with
  | indirect => exact hm
  | mapped => exact absurd hm h

theorem Run.Meets.andThen {P Q : State → Prop} {r : Run} {f : State → Run} (hr : r.Meets P)
    (hf : ∀ t, P t → (f t).Meets Q) : (andThen r f).Meets Q := by
  cases r with
  | going t => exact hf t hr
  | ended t => exact hr

theorem Run.Meets.finish {P : State → Prop} {r : Run} {f : State → State} (hr : r.Meets P)
    (hf : ∀ t, P t → AtRest (f t)) : AtRest (finish r f) := by
  cases r with
  | going t => exact hf t hr
  | ended t => exact hr

theorem meets_orFail {P : State → Prop} {s : State} (hq : QuietWhenMapped s) (hp : s.seq.ret = .ok → P s) (ea : Word) :
    (orFail ea s).Meets P := by
  obtain ⟨h, e⟩ | ⟨-, e⟩ := orFail_cases ea s <;> rw [e]
  · exact hp h
  · exact atRest_fail hq _ _

theorem meets_orInitError {P : State → Prop} {s : State} (hq : QuietWhenMapped s) (hp : s.seq.ret = .ok → P s) :
    (orInitError s).Meets P := by
  obtain ⟨h, e⟩ | ⟨-, e⟩ := orInitError_cases s <;> rw [e]
  · exact hp h
  · exact atRest_fail hq _ _

theorem meets_orFail_indirect {s : State} (h : IsIndirect s) (ea : Word) : (orFail ea s).Meets IsIndirect :=
  meets_orFail (quietWhenMapped_of_indirect h) (fun _ => h) ea

theorem meets_orInitError_indirect {s : State} (h : IsIndirect s) : (orInitError s).Meets IsIndirect :=
  meets_orInitError (quietWhenMapped_of_indirect h) fun _ => h

theorem meets_ensureIndirect {s : State} (hs : QuietWhenMapped s) (ea : Word) :
    (ensureIndirect ea s).Meets IsIndirect := by
  unfold ensureIndirect
  split_ifs with hm
  · exact meets_orFail (quietWhenMapped_abortOp hs) abortOp_mode_of_ok ea
  · exact isIndirect_of_ne_mapped hm

theorem isIndirect_setEState (e : EState) {s : State} (h : IsIndirect s) : IsIndirect (setEState e s) :=
  (setEState_mode e s).trans h

theorem meets_send (k : Kind) (a : Nat) (payload : List Byte) (ea : Word) {s : State} (hs : IsIndirect s) :
    (orFail ea (sendOp (encodeOp k a payload s))).Meets IsIndirect :=
  meets_orFail_indirect (s := sendOp (encodeOp k a payload s)) hs ea

theorem meets_poll (spec : PollSpec) (ea : Word) {s : State} (hs : IsIndirect s) :
    (orFail ea (pollOp spec s)).Meets IsIndirect :=
  meets_orFail_indirect (s := pollOp spec s) hs ea

/-- WCMD moves no mode (R135). -/
theorem meets_wcmd (k : Kind) (a : Nat) (payload : List Byte) (t ea : Word) {s : State} (hs : IsIndirect s) :
    (wcmd k a payload t ea s).Meets IsIndirect := by
  refine (meets_send .writeEnable 0 [] ea hs).andThen fun u hu => ?_
  refine (meets_poll _ ea (isIndirect_setEState .welPending hu)).andThen fun u hu => ?_
  refine (meets_send k a payload ea (isIndirect_setEState .cmdIssued hu)).andThen fun u hu => ?_
  refine (meets_poll _ ea (isIndirect_setEState .busyPolling hu)).andThen fun u hu => ?_
  exact isIndirect_setEState .idle hu

theorem readPayload_mode (n : Nat) (a : Word) (s : State) : (readPayload n a s).2.mode = s.mode := by
  induction n generalizing a s with
  | zero => rfl
  | succ n ih => exact ih (a + 1) (ramReadOp a s)

theorem meets_programChunk (start buf : Word) {s : State} (hs : IsIndirect s) :
    (programChunk start buf s).Meets IsIndirect :=
  (meets_wcmd _ _ _ _ _ ((readPayload_mode _ _ s).trans hs)).andThen fun _ hu => hu

theorem meets_programLoop (start buf : Word) (n : Nat) {s : State} (hs : IsIndirect s) :
    (programLoop start buf n s).Meets IsIndirect := by
  induction n generalizing s with
  | zero => exact hs
  | succ n ih =>
    unfold programLoop
    split_ifs
    · exact hs
    · exact (meets_programChunk start buf hs).andThen fun _ => ih

theorem meets_eraseSector {s : State} (hs : IsIndirect s) : (eraseSector s).Meets IsIndirect :=
  (meets_wcmd _ _ _ _ _ hs).andThen fun _ hu => hu

theorem meets_eraseLoop (n : Nat) {s : State} (hs : IsIndirect s) : (eraseLoop n s).Meets IsIndirect := by
  induction n generalizing s with
  | zero => exact hs
  | succ n ih =>
    unfold eraseLoop
    split_ifs
    · exact (meets_eraseSector hs).andThen fun _ => ih
    · exact hs

theorem atRest_respond_of_indirect (r : Response) (s : State) (hs : IsIndirect s) : AtRest (respond r s) :=
  atRest_respond (quietWhenMapped_of_indirect hs) r

theorem atRest_programBody (start length buf : Word) {s : State} (hs : QuietWhenMapped s) :
    AtRest (programBody start length buf s) := by
  unfold programBody
  split_ifs
  · exact atRest_respond hs _
  · exact ((meets_ensureIndirect hs start).andThen fun t ht =>
      meets_programLoop start buf length.toNat (s := splitStart start length t) ht).finish (atRest_respond_of_indirect _)

theorem atRest_eraseRangeBody (start length : Word) {s : State} (hs : QuietWhenMapped s) :
    AtRest (eraseRangeBody start length s) :=
  ((meets_ensureIndirect hs start).andThen fun t ht =>
    meets_eraseLoop _ (s := eraseStart start length t) ht).finish (atRest_respond_of_indirect _)

theorem atRest_eraseAllBody {s : State} (hs : QuietWhenMapped s) : AtRest (eraseAllBody s) :=
  ((meets_ensureIndirect hs 0).andThen fun _ ht => meets_wcmd _ _ _ _ _ ht).finish (atRest_respond_of_indirect _)

/-- An optional line of INIT (R220). -/
theorem meets_ite_initSend (c : Prop) [Decidable c] (k : Kind) {s : State} (hs : IsIndirect s) :
    (if c then initSend k s else .going s).Meets IsIndirect := by
  split_ifs
  · exact meets_orInitError_indirect hs
  · exact hs

/-- INIT sends in INDIRECT only, and maps the window last (R220). -/
theorem meets_initLines {s : State} (hs : QuietWhenMapped s) : (initLines s).Meets QuietWhenMapped := by
  refine Run.Meets.andThen (P := IsIndirect) ?_ fun t ht => ?_
  · split_ifs with hm
    · exact meets_orInitError (quietWhenMapped_abortOp hs) abortOp_mode_of_ok
    · exact isIndirect_of_ne_mapped hm
  refine (meets_ite_initSend _ .resetEnable ht).andThen fun t ht => ?_
  refine Run.Meets.andThen (P := IsIndirect) (meets_orInitError_indirect ht) fun t ht => ?_
  refine Run.Meets.andThen (P := IsIndirect) (meets_orInitError_indirect ht) fun t ht => ?_
  refine (meets_ite_initSend _ .enter4Byte ht).andThen fun t ht => ?_
  split_ifs
  · exact meets_orInitError (quietWhenMapped_mapOp t) fun _ => quietWhenMapped_mapOp t
  · exact quietWhenMapped_of_indirect ht

theorem atRest_initBody {s : State} (hs : QuietWhenMapped s) : AtRest (initBody s) :=
  Run.Meets.finish (meets_initLines (s := { s with initDone := false }) hs) fun t ht =>
    atRest_respond (s := { t with initDone := true }) ht _

/-- CHECKSUM and VERIFY (R195, R205). -/
theorem atRest_of_reading {s t : State} (h : ReadsThenResponds s t ∨ ReadsThenResponds (mapOp s) t)
    (hs : QuietWhenMapped s) : AtRest t := by
  obtain h | h := h
  · exact atRest_of_readsThenResponds h hs
  · exact atRest_of_readsThenResponds h (quietWhenMapped_mapOp s)

theorem atRest_of_runRequest {op : BitVec 4} {needsInit : Bool} {extent : Nat} {body : State → State} {s t : State}
    (hs : AtRest s) (hb : ∀ {s}, QuietWhenMapped s → AtRest (body s))
    (h : runRequest op needsInit extent body s = .next t) : AtRest t := by
  obtain ⟨-, -, hq⟩ := hs
  obtain ⟨-, rfl⟩ := runRequest_eq_next.1 h
  exact hb (quietWhenMapped_of_eq (accept_mode op s) (accept_dev op s) hq)

/-- A SEND or POLL line runs in INDIRECT only (R21, R267). -/
theorem isIndirect_of_indirectOnly {s : State} (h : indirectOnly s = none) : IsIndirect s :=
  isIndirect_of_ne_mapped fun hm => by simp [indirectOnly, hm] at h

theorem isIndirect_of_sendRefusal {s : State} (h : sendRefusal s = none) : IsIndirect s := by
  refine isIndirect_of_indirectOnly ?_
  cases hi : indirectOnly s with
  | none => rfl
  | some r => simp [sendRefusal, hi] at h

/-- A line writes neither ESTATE nor CUR_OP. -/
theorem atRest_of_line {s t : State} (hs : AtRest s) (he : t.estate = s.estate) (hc : t.curOp = s.curOp)
    (hq : QuietWhenMapped t) : AtRest t := by
  obtain ⟨hidle, hop, -⟩ := hs
  exact ⟨he.trans hidle, hc.trans hop, hq⟩

/-- Every instruction leaves the block at rest. -/
theorem exec_atRest {i : Instr} {s t : State} (h : exec i s = .next t) (hs : AtRest s) : AtRest t := by
  by_cases hb : formatOf i = .busCmd
  · obtain ⟨k, a, p, rfl⟩ := exec_busCmd_next hb h
    exact hs
  have ⟨_, _, hq⟩ := hs
  cases i with
  | init => exact atRest_of_runRequest hs atRest_initBody h
  | program start length buf => exact atRest_of_runRequest hs (atRest_programBody start length buf) h
  | eraseRange start length => exact atRest_of_runRequest hs (atRest_eraseRangeBody start length) h
  | eraseAll => exact atRest_of_runRequest hs atRest_eraseAllBody h
  | checksum start length seed =>
    exact atRest_of_runRequest hs (atRest_of_reading (checksumBody_reads start length seed _)) h
  | verify start length seed buf =>
    exact atRest_of_runRequest hs (atRest_of_reading (verifyBody_reads start length seed buf _)) h
  | send =>
    obtain ⟨-, hr, rfl⟩ := runLine_eq_next.1 ((exec_send s).symm.trans h)
    exact atRest_of_line hs rfl rfl (quietWhenMapped_of_indirect (isIndirect_of_sendRefusal hr))
  | poll spec =>
    obtain ⟨-, hr, rfl⟩ := runLine_eq_next.1 ((exec_poll spec s).symm.trans h)
    exact atRest_of_line hs rfl rfl (quietWhenMapped_of_indirect (isIndirect_of_indirectOnly hr))
  | map =>
    obtain ⟨-, -, rfl⟩ := runLine_eq_next.1 ((exec_map s).symm.trans h)
    exact atRest_of_line hs rfl rfl (quietWhenMapped_mapOp s)
  | abort =>
    obtain ⟨-, -, rfl⟩ := runLine_eq_next.1 ((exec_abort s).symm.trans h)
    exact atRest_of_line hs rfl rfl (quietWhenMapped_abortOp hq)
  | resetEnable | reset | writeEnable | readStatus | pageProgram | sectorErase | chipErase | quadRead | enter4Byte =>
    exact absurd rfl hb

theorem step_inv {s t : State} (h : step s = .next t) (hs : s.Inv) : t.Inv := by
  obtain ⟨hmem, hrest⟩ := (inv_iff s).1 hs
  refine (inv_iff t).2 ?_
  obtain ⟨_, ⟨r, i, -, -, hx⟩ | ⟨-, -, rfl⟩ | ⟨ms, -, -, rfl⟩ | ⟨req, buffer, ms, i, -, -, -, hx⟩ |
    ⟨req, buffer, ms, -, -, -, rfl⟩⟩ := step_cases h
  · exact ⟨exec_memoriesOk hx hmem, exec_atRest hx hrest⟩
  · exact ⟨hmem, hrest⟩
  · exact ⟨memoriesOk_takeMove hmem ms [], rfl, rfl, quietWhenMapped_of_indirect rfl⟩
  · exact ⟨exec_memoriesOk hx (memoriesOk_takeMove hmem ms buffer), exec_atRest hx hrest⟩
  · exact ⟨memoriesOk_takeMove hmem ms buffer, hrest⟩

/-- Settles O53: the memories are kept by every primitive, and the rest by every instruction. -/
theorem stepKeepsTheInvariant : Obligations.StepKeepsTheInvariant := fun _ _ hs h => step_inv h hs

end Sys2Proof.Machine
end

section
/-! PROOFS of the family 10_state: the calls the model refuses (R21, R114, R267), POLL's frame (R29, R59), who writes
each register (R22 to R30, R36), which flash bytes may change (R34, R60), and what no request reads (R31). -/

namespace Sys2Proof.Machine

/-! ## Calls the model refuses -/

/-- DDIR of an encoded command is its kind's data direction (R82, R101). -/
theorem ddirField_encodeWord0 (cat : Catalog) (k : Kind) : ddirField (encodeWord0 cat k) = dataDir k := by
  refine BitVec.eq_of_getLsbD_eq fun i hi => ?_
  obtain rfl | rfl : i = 0 ∨ i = 1 := by omega
  all_goals simp [ddirField, encodeWord0, BitVec.getLsbD_of_ge]

theorem indirectOnly_of_mapped {s : State} (h : s.mode = .mapped) : indirectOnly s = some .modeDiscipline := if_pos h

theorem sendRefusal_of_mapped {s : State} (h : s.mode = .mapped) : sendRefusal s = some .modeDiscipline := by
  simp [sendRefusal, indirectOnly_of_mapped h]

theorem sendRefusal_of_reads {s : State} (h : s.mode = .indirect) (hd : ddirField s.seq.cmd.w0 = 1) :
    sendRefusal s = some .readCommandSent := by
  simp [sendRefusal, indirectOnly, h, hd]

theorem runLine_of_refusal {s : State} {r : Refusal} (hw : s.cfg.wf = true) (body : State → State) :
    runLine (some r) body s = .refused r := by
  simp [runLine, hw]

/-- Settles O13: both refusals come before the call, and DDIR of a read command is 1. -/
theorem forbiddenCallsAreRefused : Obligations.ForbiddenCallsAreRefused := by
  intro s spec hw
  have hread (hm : s.mode = .indirect) (hd : ddirField s.seq.cmd.w0 = 1) :
      exec .send s = .refused .readCommandSent := by
    rw [exec_send, sendRefusal_of_reads hm hd, runLine_of_refusal hw]
  refine ⟨fun hm => ⟨?_, ?_⟩, hread, ?_⟩
  · rw [exec_send, sendRefusal_of_mapped hm, runLine_of_refusal hw]
  · rw [exec_poll, indirectOnly_of_mapped hm, runLine_of_refusal hw]
  · rintro k (rfl | rfl) a payload hm hcmd
    · exact hread hm (hcmd ▸ ddirField_encodeWord0 s.cfg.cat .readStatus)
    · exact hread hm (hcmd ▸ ddirField_encodeWord0 s.cfg.cat .quadRead)

/-! ## POLL -/

/-- Settles O15: POLL is `pollOp`, whose only effect on the flash bytes is `devicePoll`'s. -/
theorem pollFrame : Obligations.PollFrame := by
  intro s t spec h
  obtain ⟨-, -, rfl⟩ := runLine_eq_next.1 ((exec_poll spec s).symm.trans h)
  refine ⟨rfl, rfl, by simp, by simp, by simp, by simp, fun a ha => ?_⟩
  rw [pollOp_dev, flashByte_consumeDraw]
  obtain hu | hq := ha
  · exact flashByte_devicePoll_of_settled _ _ _ _ hu
  · exact flashByte_devicePoll_of_quiet _ _ _ _ hq a

/-! ## Which instructions write which registers -/

/-- What the frame rules tell apart: the registers of each unit (R25 to R29), and those that only a request writes:
ESTATE, CUR_OP and the response (R23, R30, R225). -/
inductive Reg where
  | splitter
  | eraser
  | summer
  | verifier
  | poller
  | request
  deriving DecidableEq

/-- These registers hold the same in both states. -/
def SameReg (s t : State) : Reg → Prop
  | .splitter => t.spl = s.spl
  | .eraser => t.ers = s.ers
  | .summer => t.cks = s.cks
  | .verifier => t.vfy = s.vfy
  | .poller => t.pol = s.pol
  | .request => t.estate = s.estate ∧ t.esLog = s.esLog ∧ t.curOp = s.curOp ∧ t.rsp = s.rsp

theorem SameReg.trans {s t u : State} {r : Reg} (h : SameReg s t r) (k : SameReg t u r) : SameReg s u r := by
  cases r with
  | request =>
    obtain ⟨he, hl, hc, hr⟩ := h
    obtain ⟨ke, kl, kc, kr⟩ := k
    exact ⟨ke.trans he, kl.trans hl, kc.trans hc, kr.trans hr⟩
  | splitter | eraser | summer | verifier | poller => exact Eq.trans k h

/-- From `s` to `t` no registers change but those of `w`. -/
def Frame (w : List Reg) (s t : State) : Prop := ∀ r, r ∉ w → SameReg s t r

section
variable {w : List Reg}

theorem Frame.trans {s t u : State} (h : Frame w s t) (k : Frame w t u) : Frame w s u :=
  fun r hr => (h r hr).trans (k r hr)

theorem frame_of_writes {r₀ : Reg} (h : r₀ ∈ w) {s t : State} (ht : ∀ r, r ≠ r₀ → SameReg s t r) : Frame w s t :=
  fun r hr => ht r fun e => hr (e ▸ h)

/-! ### Operations -/

/-- What these registers do not hold may change in any way. -/
theorem frame_elsewhere (s : State) (mode : Mode) (initDone : Bool) (seq : Sequencer) (dev : Device)
    (trace : List Event) :
    Frame w s { s with mode := mode, initDone := initDone, seq := seq, dev := dev, trace := trace } :=
  fun r _ => by cases r <;> simp [SameReg]

theorem Frame.refl (s : State) : Frame w s s := frame_elsewhere s _ _ _ _ _

theorem frame_encodeOp (k : Kind) (a : Nat) (p : List Byte) (s : State) : Frame w s (encodeOp k a p s) :=
  frame_elsewhere s _ _ _ _ _

theorem frame_sendOp (s : State) : Frame w s (sendOp s) := frame_elsewhere s _ _ _ _ _

theorem frame_mapOp (s : State) : Frame w s (mapOp s) := frame_elsewhere s _ _ _ _ _

theorem frame_abortOp (s : State) : Frame w s (abortOp s) := frame_elsewhere s _ _ _ _ _

theorem frame_memReadOp (a n : Nat) (s : State) : Frame w s (memReadOp a n s) := frame_elsewhere s _ _ _ _ _

theorem frame_ramReadOp (a : Word) (s : State) : Frame w s (ramReadOp a s) := frame_elsewhere s _ _ _ _ _

theorem frame_pollOp (h : .poller ∈ w) (spec : PollSpec) (s : State) : Frame w s (pollOp spec s) :=
  frame_of_writes h fun r hr => by cases r <;> simp_all [SameReg]

theorem frame_setSplitter (h : .splitter ∈ w) (x : Splitter) (s : State) : Frame w s { s with spl := x } :=
  frame_of_writes h fun r hr => by cases r <;> simp_all [SameReg]

theorem frame_setEraser (h : .eraser ∈ w) (x : Eraser) (s : State) : Frame w s { s with ers := x } :=
  frame_of_writes h fun r hr => by cases r <;> simp_all [SameReg]

theorem frame_setSummer (h : .summer ∈ w) (x : Summer) (s : State) : Frame w s { s with cks := x } :=
  frame_of_writes h fun r hr => by cases r <;> simp_all [SameReg]

theorem frame_setVerifier (h : .verifier ∈ w) (x : Verifier) (s : State) : Frame w s { s with vfy := x } :=
  frame_of_writes h fun r hr => by cases r <;> simp_all [SameReg]

theorem frame_andThen {s : State} {r : Run} {f : State → Run} (hr : Frame w s (runState r))
    (hf : ∀ t, Frame w t (runState (f t))) : Frame w s (runState (andThen r f)) := by
  cases r with
  | going t => exact hr.trans (hf t)
  | ended t => exact hr

theorem frame_finish {s : State} {r : Run} {f : State → State} (hr : Frame w s (runState r))
    (hf : ∀ t, Frame w t (f t)) : Frame w s (finish r f) := by
  cases r with
  | going t => exact hr.trans (hf t)
  | ended t => exact hr

theorem frame_readPayload (n : Nat) (a : Word) (s : State) : Frame w s (readPayload n a s).2 := by
  induction n generalizing a s with
  | zero => exact .refl s
  | succ n ih => exact (frame_ramReadOp a s).trans (ih _ _)

theorem frame_checksumLoop (hc : .summer ∈ w) (n : Nat) (s : State) : Frame w s (checksumLoop n s) := by
  induction n generalizing s with
  | zero => exact .refl s
  | succ n ih =>
    unfold checksumLoop
    split_ifs
    · exact ((frame_memReadOp _ 4 s).trans (frame_setSummer hc _ _)).trans (ih _)
    · exact .refl s

theorem frame_checksumCore (hc : .summer ∈ w) (start length seed : Word) (s : State) :
    Frame w s (checksumCore start length seed s) :=
  (frame_setSummer hc _ s).trans (frame_checksumLoop hc _ _)

/-! ### Requests -/

section
variable (hq : .request ∈ w)
include hq

theorem frame_setEState (e : EState) (s : State) : Frame w s (setEState e s) :=
  frame_of_writes hq fun r hr => by cases r <;> simp_all [SameReg]

theorem frame_respond (x : Response) (s : State) : Frame w s (respond x s) :=
  frame_of_writes hq fun r hr => by cases r <;> simp_all [SameReg]

theorem frame_accept (op : BitVec 4) (s : State) : Frame w s (accept op s) :=
  frame_of_writes hq fun r hr => by cases r <;> simp_all [SameReg]

theorem frame_fail (k : Status) (a : Word) (s : State) : Frame w s (fail k a s) :=
  (frame_setEState hq _ s).trans (frame_respond hq _ _)

theorem frame_orFail {s t : State} (h : Frame w s t) (ea : Word) : Frame w s (runState (orFail ea t)) := by
  obtain ⟨-, e⟩ | ⟨-, e⟩ := orFail_cases ea t <;> rw [e]
  · exact h
  · exact h.trans (frame_fail hq _ _ _)

theorem frame_orInitError {s t : State} (h : Frame w s t) : Frame w s (runState (orInitError t)) := by
  obtain ⟨-, e⟩ | ⟨-, e⟩ := orInitError_cases t <;> rw [e]
  · exact h
  · exact h.trans (frame_fail hq _ _ _)

theorem frame_initSend (k : Kind) (s : State) : Frame w s (runState (initSend k s)) :=
  frame_orInitError hq ((frame_encodeOp k 0 [] s).trans (frame_sendOp _))

theorem frame_ensureIndirect (ea : Word) (s : State) : Frame w s (runState (ensureIndirect ea s)) := by
  unfold ensureIndirect
  split_ifs
  · exact frame_orFail hq (frame_abortOp s) ea
  · exact .refl s

theorem frame_ensureMapped (ea : Word) (s : State) : Frame w s (runState (ensureMapped ea s)) := by
  unfold ensureMapped
  split_ifs
  · exact frame_orFail hq (frame_mapOp s) ea
  · exact .refl s

theorem frame_runRequest {op : BitVec 4} {needsInit : Bool} {extent : Nat} {body : State → State} {s t : State}
    (hb : ∀ s, Frame w s (body s)) (h : runRequest op needsInit extent body s = .next t) : Frame w s t := by
  obtain ⟨-, rfl⟩ := runRequest_eq_next.1 h
  exact (frame_accept hq op s).trans (hb _)

theorem frame_checksumBody (hc : .summer ∈ w) (start length seed : Word) (s : State) :
    Frame w s (checksumBody start length seed s) := by
  unfold checksumBody
  split_ifs
  · exact frame_respond hq _ s
  · exact frame_finish (frame_ensureMapped hq start s) fun t =>
      (frame_checksumCore hc start length seed t).trans (frame_respond hq _ _)

theorem frame_verifyLoop (hv : .verifier ∈ w) (start buf ck : Word) (n : Nat) (s : State) :
    Frame w s (verifyLoop start buf ck n s) := by
  induction n generalizing s with
  | zero => exact frame_respond hq _ s
  | succ n ih =>
    have hread : Frame w s (ramReadOp (buf + s.vfy.vidx) (memReadOp (start + s.vfy.vidx).toNat 1 s)) :=
      (frame_memReadOp _ _ s).trans (frame_ramReadOp _ _)
    unfold verifyLoop
    simp only
    split_ifs
    · exact (hread.trans (frame_setVerifier hv _ _)).trans (ih _)
    · exact (hread.trans (frame_setVerifier hv _ _)).trans (frame_respond hq _ _)

theorem frame_verifyBody (hc : .summer ∈ w) (hv : .verifier ∈ w) (start length seed buf : Word) (s : State) :
    Frame w s (verifyBody start length seed buf s) := by
  unfold verifyBody
  split_ifs
  · exact frame_respond hq _ s
  · exact frame_finish (frame_ensureMapped hq start s) fun t =>
      ((frame_checksumCore hc start length seed t).trans (frame_setVerifier hv _ _)).trans
        (frame_verifyLoop hq hv _ _ _ _ _)

variable (hp : .poller ∈ w)
include hp

theorem frame_wcmd (k : Kind) (a : Nat) (payload : List Byte) (t ea : Word) (s : State) :
    Frame w s (runState (wcmd k a payload t ea s)) := by
  refine frame_andThen (frame_orFail hq ((frame_encodeOp _ _ _ s).trans (frame_sendOp _)) ea) fun s => ?_
  refine frame_andThen (frame_orFail hq ((frame_setEState hq _ s).trans (frame_pollOp hp _ _)) ea) fun s => ?_
  refine frame_andThen (frame_orFail hq
    (((frame_setEState hq _ s).trans (frame_encodeOp _ _ _ _)).trans (frame_sendOp _)) ea) fun s => ?_
  refine frame_andThen (frame_orFail hq ((frame_setEState hq _ s).trans (frame_pollOp hp _ _)) ea) fun s => ?_
  exact frame_setEState hq .idle s

theorem frame_initLines (s : State) : Frame w s (runState (initLines s)) := by
  refine frame_andThen ?_ fun s => frame_andThen ?_ fun s => frame_andThen (frame_initSend hq .reset s) fun s =>
    frame_andThen (frame_orInitError hq (frame_pollOp hp _ s)) fun s => frame_andThen ?_ fun s => ?_
  all_goals split_ifs
  · exact frame_orInitError hq (frame_abortOp s)
  · exact .refl s
  · exact frame_initSend hq .resetEnable s
  · exact .refl s
  · exact frame_initSend hq .enter4Byte s
  · exact .refl s
  · exact frame_orInitError hq (frame_mapOp s)
  · exact .refl s

theorem frame_initBody (s : State) : Frame w s (initBody s) :=
  (frame_elsewhere s _ false _ _ _).trans <|
    frame_finish (frame_initLines hq hp _) fun t => (frame_elsewhere t _ true _ _ _).trans (frame_respond hq _ _)

theorem frame_eraseAllBody (s : State) : Frame w s (eraseAllBody s) :=
  frame_finish (frame_andThen (frame_ensureIndirect hq 0 s) fun _ => frame_wcmd hq hp _ _ _ _ _ _) (frame_respond hq _)

theorem frame_eraseLoop (he : .eraser ∈ w) (n : Nat) (s : State) : Frame w s (runState (eraseLoop n s)) := by
  induction n generalizing s with
  | zero => exact .refl s
  | succ n ih =>
    unfold eraseLoop
    split_ifs
    · refine frame_andThen ?_ ih
      exact frame_andThen (frame_wcmd hq hp _ _ _ _ _ s) fun t => frame_setEraser he _ t
    · exact .refl s

theorem frame_eraseRangeBody (he : .eraser ∈ w) (start length : Word) (s : State) :
    Frame w s (eraseRangeBody start length s) :=
  frame_finish (frame_andThen (frame_ensureIndirect hq start s) fun t =>
    (frame_setEraser he _ t).trans (frame_eraseLoop hq hp he _ _)) (frame_respond hq _)

theorem frame_programLoop (hs : .splitter ∈ w) (start buf : Word) (n : Nat) (s : State) :
    Frame w s (runState (programLoop start buf n s)) := by
  induction n generalizing s with
  | zero => exact .refl s
  | succ n ih =>
    unfold programLoop
    split_ifs
    · exact .refl s
    · refine frame_andThen ?_ ih
      exact frame_andThen ((frame_readPayload _ _ s).trans (frame_wcmd hq hp _ _ _ _ _ _))
        fun t => frame_setSplitter hs _ t

theorem frame_programBody (hs : .splitter ∈ w) (start length buf : Word) (s : State) :
    Frame w s (programBody start length buf s) := by
  unfold programBody
  split_ifs
  · exact frame_respond hq _ s
  · exact frame_finish (frame_andThen (frame_ensureIndirect hq start s) fun t =>
      (frame_setSplitter hs _ t).trans (frame_programLoop hq hp hs start buf _ _)) (frame_respond hq _)

end
end

/-! ### Instructions -/

/-- The registers each instruction may write (R23, R25 to R30, R225). -/
def writesOf : Instr → List Reg
  | .init | .eraseAll => [.poller, .request]
  | .program .. => [.splitter, .poller, .request]
  | .eraseRange .. => [.eraser, .poller, .request]
  | .checksum .. => [.summer, .request]
  | .verify .. => [.summer, .verifier, .request]
  | .poll _ => [.poller]
  | .resetEnable | .reset | .writeEnable | .readStatus | .pageProgram .. | .sectorErase _ | .chipErase | .quadRead => []
  | .enter4Byte | .send | .map | .abort => []

theorem splitter_mem_writesOf {i : Instr} :
    .splitter ∈ writesOf i ↔ ∃ start length buf, i = .program start length buf := by
  cases i <;> simp [writesOf]

theorem eraser_mem_writesOf {i : Instr} : .eraser ∈ writesOf i ↔ ∃ start length, i = .eraseRange start length := by
  cases i <;> simp [writesOf]

theorem summer_mem_writesOf {i : Instr} :
    .summer ∈ writesOf i ↔
      (∃ start length seed, i = .checksum start length seed) ∨
        ∃ start length seed buf, i = .verify start length seed buf := by
  cases i <;> simp [writesOf]

theorem verifier_mem_writesOf {i : Instr} :
    .verifier ∈ writesOf i ↔ ∃ start length seed buf, i = .verify start length seed buf := by
  cases i <;> simp [writesOf]

theorem request_mem_writesOf {i : Instr} : .request ∈ writesOf i ↔ isRequest i = true := by
  cases i <;> simp [writesOf, isRequest]

theorem exec_frame {i : Instr} {s t : State} (h : exec i s = .next t) : Frame (writesOf i) s t := by
  by_cases hb : formatOf i = .busCmd
  · obtain ⟨k, a, p, rfl⟩ := exec_busCmd_next hb h
    exact frame_encodeOp k a p s
  have hq (hi : isRequest i = true) : .request ∈ writesOf i := request_mem_writesOf.2 hi
  cases i with
  | init => exact frame_runRequest (hq rfl) (frame_initBody (hq rfl) (by simp [writesOf])) h
  | program start length buf =>
    exact frame_runRequest (hq rfl)
      (frame_programBody (hq rfl) (by simp [writesOf]) (by simp [writesOf]) start length buf) h
  | eraseRange start length =>
    exact frame_runRequest (hq rfl)
      (frame_eraseRangeBody (hq rfl) (by simp [writesOf]) (by simp [writesOf]) start length) h
  | eraseAll => exact frame_runRequest (hq rfl) (frame_eraseAllBody (hq rfl) (by simp [writesOf])) h
  | checksum start length seed =>
    exact frame_runRequest (hq rfl) (frame_checksumBody (hq rfl) (by simp [writesOf]) start length seed) h
  | verify start length seed buf =>
    exact frame_runRequest (hq rfl)
      (frame_verifyBody (hq rfl) (by simp [writesOf]) (by simp [writesOf]) start length seed buf) h
  | send =>
    obtain ⟨-, -, rfl⟩ := runLine_eq_next.1 ((exec_send s).symm.trans h)
    exact frame_sendOp s
  | poll spec =>
    obtain ⟨-, -, rfl⟩ := runLine_eq_next.1 ((exec_poll spec s).symm.trans h)
    exact frame_pollOp (by simp [writesOf]) spec s
  | map =>
    obtain ⟨-, -, rfl⟩ := runLine_eq_next.1 ((exec_map s).symm.trans h)
    exact frame_mapOp s
  | abort =>
    obtain ⟨-, -, rfl⟩ := runLine_eq_next.1 ((exec_abort s).symm.trans h)
    exact frame_abortOp s
  | resetEnable | reset | writeEnable | readStatus | pageProgram | sectorErase | chipErase | quadRead | enter4Byte =>
    exact absurd rfl hb

/-- No primitive writes the host or the sequencer's position, and only INIT writes INIT_DONE (R22). -/
structure KeepsHost (mayInit : Bool) (s t : State) : Prop where
  host : t.host = s.host
  pos : t.seq.pos = s.seq.pos
  initDone : mayInit = false → t.initDone = s.initDone

theorem keepsHost_of_prim {b : Bool} {s t : State} (h : Prim b s t) : KeepsHost b s t := by
  cases h with
  | send | poll | map | abort | memRead | ramRead => exact ⟨rfl, rfl, fun _ => rfl⟩
  | regs _ _ _ _ _ _ host _ pos initDone => exact ⟨host, pos, initDone⟩

theorem exec_keepsHost {i : Instr} {s t : State} (h : exec i s = .next t) : KeepsHost (i == .init) s t := by
  have hsteps := exec_steps h
  clear h
  induction hsteps with
  | refl => exact ⟨rfl, rfl, fun _ => rfl⟩
  | tail _ hp ih =>
    have hk := keepsHost_of_prim hp
    exact ⟨hk.host.trans ih.host, hk.pos.trans ih.pos, fun hi => (hk.initDone hi).trans (ih.initDone hi)⟩

/-- Settles O45: an instruction writes what `writesOf` lists, and no primitive writes the rest. -/
theorem registerFrames : Obligations.RegisterFrames := by
  intro i s t h
  have hk := exec_keepsHost h
  have hf := exec_frame h
  refine ⟨(exec_extends h).cfg, hk.host, hk.pos, fun hi => hk.initDone (by simpa using hi), fun hi => ?_, fun hi => ?_,
    fun hi hj => ?_, fun hi => ?_, fun hi => ?_, fun hi => ?_⟩
  · refine hf .splitter fun hm => ?_
    obtain ⟨start, length, buf, e⟩ := splitter_mem_writesOf.1 hm
    exact hi start length buf e
  · refine hf .eraser fun hm => ?_
    obtain ⟨start, length, e⟩ := eraser_mem_writesOf.1 hm
    exact hi start length e
  · refine hf .summer fun hm => ?_
    obtain ⟨start, length, seed, e⟩ | ⟨start, length, seed, buf, e⟩ := summer_mem_writesOf.1 hm
    · exact hi start length seed e
    · exact hj start length seed buf e
  · refine hf .verifier fun hm => ?_
    obtain ⟨start, length, seed, buf, e⟩ := verifier_mem_writesOf.1 hm
    exact hi start length seed buf e
  · refine hf .poller ?_
    obtain ⟨start, length, seed, rfl⟩ | ⟨start, length, seed, buf, rfl⟩ := hi <;> simp [writesOf]
  · exact hf .request (by simp [request_mem_writesOf, hi])

/-! ## The flash bytes an instruction may change -/

theorem unsettled_map_forget {d e : Device} (h : e.inflight = d.inflight.map forget) (a : Nat) :
    unsettled e a = unsettled d a := by
  simp [unsettled, covers, h, forget, Function.comp_def]

theorem unsettled_devicePoll (c : Cfg) (an : Answer) (p : PollSpec) (q : Poller) {d : Device} {a : Nat}
    (h : unsettled d a = false) : unsettled (devicePoll c an p q d) a = false := by
  obtain hi | hi | hi := devicePoll_inflight_cases c an p q d
  · simpa [unsettled, hi] using h
  · simp only [unsettled, hi, List.any_eq_false] at h ⊢
    exact fun op hop => h op (List.mem_filter.1 hop).1
  · rwa [unsettled_map_forget hi]

/-- From `s` to `t` a byte keeps its value, and stays uncovered, if no unfinished command covers it and none of the
commands sent on the way may change it (R34, R60). -/
def KeepsFlash (s t : State) : Prop :=
  t.cfg = s.cfg ∧ ∃ new, t.trace = s.trace ++ new ∧ ∀ a, unsettled s.dev a = false → untouched s.cfg new a →
    flashByte t.dev a = flashByte s.dev a ∧ unsettled t.dev a = false

theorem untouched_append (cfg : Cfg) (es fs : List Event) (a : Nat) :
    untouched cfg (es ++ fs) a ↔ untouched cfg es a ∧ untouched cfg fs a := by
  simp [untouched, or_imp, forall_and]

theorem KeepsFlash.refl (s : State) : KeepsFlash s s := ⟨rfl, [], by simp, fun _ hu _ => ⟨rfl, hu⟩⟩

theorem KeepsFlash.trans {s t u : State} (h : KeepsFlash s t) (k : KeepsFlash t u) : KeepsFlash s u := by
  obtain ⟨hc, es, ht, hs⟩ := h
  obtain ⟨kc, fs, ku, kt⟩ := k
  refine ⟨kc.trans hc, es ++ fs, by rw [ku, ht, List.append_assoc], fun a hu hx => ?_⟩
  obtain ⟨hes, hfs⟩ := (untouched_append _ _ _ a).1 hx
  obtain ⟨hb, hu'⟩ := hs a hu hes
  obtain ⟨kb, ku'⟩ := kt a hu' (hc ▸ hfs)
  exact ⟨kb.trans hb, ku'⟩

theorem keepsFlash_of_prim {b : Bool} {s t : State} (h : Prim b s t) : KeepsFlash s t := by
  cases h with
  | send =>
    refine ⟨rfl, _, rfl, fun a hu hx => ?_⟩
    exact flashByte_deviceSend_of_uncovered _ hu fun runs => hx _ _ runs (List.mem_singleton.2 rfl)
  | poll spec =>
    exact ⟨rfl, _, rfl, fun a hu _ => ⟨flashByte_devicePoll_of_settled _ _ _ _ hu, unsettled_devicePoll _ _ _ _ hu⟩⟩
  | map =>
    exact ⟨rfl, _, rfl, fun a hu _ => ⟨flashByte_disturb _ a, (unsettled_map_forget rfl a).trans hu⟩⟩
  | abort | memRead | ramRead => exact ⟨rfl, _, rfl, fun _ hu _ => ⟨rfl, hu⟩⟩
  | regs _ _ cfg _ _ dev _ trace => exact ⟨cfg, [], by simp [trace], fun _ hu _ => by simp [dev, hu]⟩

theorem exec_keepsFlash {i : Instr} {s t : State} (h : exec i s = .next t) : KeepsFlash s t := by
  have hsteps := exec_steps h
  clear h
  induction hsteps with
  | refl => exact .refl s
  | tail _ hp ih => exact ih.trans (keepsFlash_of_prim hp)

/-- Settles O47: `KeepsFlash` holds of each primitive and is transitive. -/
theorem storedBytesFrame : Obligations.StoredBytesFrame := fun _ _ _ h =>
  have ⟨_, new, ht, hk⟩ := exec_keepsFlash h
  ⟨new, ht, fun a hu hx => (hk a hu hx).1⟩

/-! ## The registers that a request does not read (R31) -/

/-- The state with every register of R31 at the value block reset gives it: the units' registers, the response and the
sequencer's locals (R25 to R30, R260). -/
def visible (s : State) : State :=
  { s with
    spl := Splitter.zero, ers := Eraser.zero, cks := Summer.zero, vfy := Verifier.zero, pol := Poller.zero
    rsp := Response.zero, seq := { Sequencer.start s.cfg.cat with pos := s.seq.pos } }

/-- Two states that differ in registers of R31 alone. -/
def Alike (s u : State) : Prop := visible u = visible s

theorem alike_iff {s u : State} :
    Alike s u ↔ u = { s with
      spl := u.spl, ers := u.ers, cks := u.cks, vfy := u.vfy, pol := u.pol, rsp := u.rsp
      seq := { s.seq with cmd := u.seq.cmd, ret := u.seq.ret } } := by
  constructor
  · intro h
    obtain ⟨_, _, _, _, _, ⟨_, _, _⟩, _⟩ := s
    obtain ⟨_, _, _, _, _, ⟨_, _, _⟩, _⟩ := u
    simp_all [Alike, visible, Sequencer.start]
  · intro h
    rw [h]
    rfl

/-- What reads no register of R31 answers the same in two such states. -/
theorem Alike.read {α : Sort*} {s u : State} (h : Alike s u) {f : State → α} (hf : ∀ s, f (visible s) = f s) :
    f u = f s := by
  rw [← hf u, ← hf s, h]

theorem Alike.cfg {s u : State} (h : Alike s u) : u.cfg = s.cfg := h.read fun _ => rfl
theorem Alike.mode {s u : State} (h : Alike s u) : u.mode = s.mode := h.read fun _ => rfl

/-- An operation that reads none of these registers keeps two such states alike. -/
theorem Alike.map {s u : State} (h : Alike s u) {f : State → State} (hf : ∀ s, Alike (f s) (f (visible s))) :
    Alike (f s) (f u) :=
  h.read (f := fun s => visible (f s)) hf

/-- Two alike states in which `f` reads the same, though it may read a register of R31. -/
def AlikeIn {α : Type} (f : State → α) (s u : State) : Prop := Alike s u ∧ f u = f s

/-- An operation that reads none of these registers leaves in `f` the same. -/
theorem Alike.after {α : Type} {s u : State} (h : Alike s u) {g : State → State} {f : State → α}
    (hg : ∀ s, Alike (g s) (g (visible s))) (hf : ∀ s, f (g (visible s)) = f (g s)) : AlikeIn f (g s) (g u) :=
  ⟨h.map hg, h.read (f := fun s => f (g s)) hf⟩

theorem Alike.setEState {s u : State} (h : Alike s u) (e : EState) : Alike (setEState e s) (setEState e u) := by
  refine h.map fun s => ?_
  have hv (s : State) : visible (Machine.setEState e s) = Machine.setEState e (visible s) := apply_ite visible _ _ _
  exact (hv _).trans (hv s).symm

theorem Alike.accept {s u : State} (h : Alike s u) (op : BitVec 4) : Alike (accept op s) (accept op u) :=
  (h.map (f := fun s => { s with curOp := op }) fun _ => rfl).setEState .idle

/-- Two ends of a request: with the same response. -/
abbrev SameEnd := AlikeIn State.rsp

theorem sameEnd_respond {s u : State} (h : Alike s u) (r : Response) : SameEnd (respond r s) (respond r u) :=
  ⟨(h.map (f := fun s => { s with rsp := r, curOp := 0 }) fun _ => rfl).setEState .idle, by simp⟩

theorem sameEnd_fail {s u : State} (h : Alike s u) (k : Status) (a : Word) : SameEnd (fail k a s) (fail k a u) :=
  sameEnd_respond (h.setEState .failed) _

/-- Two runs of the same lines: both go on, in states that `R` relates, or both have ended with the same response. -/
inductive RunsAlike (R : State → State → Prop) : Run → Run → Prop where
  | going {s u : State} (h : R s u) : RunsAlike R (.going s) (.going u)
  | ended {s u : State} (h : SameEnd s u) : RunsAlike R (.ended s) (.ended u)

theorem RunsAlike.andThen {R Q : State → State → Prop} {r q : Run} {f g : State → Run} (h : RunsAlike R r q)
    (hf : ∀ s u, R s u → RunsAlike Q (f s) (g u)) : RunsAlike Q (andThen r f) (andThen q g) := by
  cases h with
  | going h => exact hf _ _ h
  | ended h => exact .ended h

theorem RunsAlike.finish {R : State → State → Prop} {r q : Run} {f g : State → State} (h : RunsAlike R r q)
    (hf : ∀ s u, R s u → SameEnd (f s) (g u)) : SameEnd (finish r f) (finish q g) := by
  cases h with
  | going h => exact hf _ _ h
  | ended h => exact h

/-- What both runs leave unchanged stays equal. -/
theorem RunsAlike.keeps {α : Type} (f : State → α) {s u : State} {r q : Run} (h : RunsAlike Alike r q)
    (hs : f (runState r) = f s) (hu : f (runState q) = f u) (e : f u = f s) :
    RunsAlike (AlikeIn f) r q := by
  cases h with
  | going h => exact .going ⟨h, (hu.trans e).trans hs.symm⟩
  | ended h => exact .ended h

/-! ### Calls -/

/-- Two states after the same call: with the same answer. -/
abbrev SameAnswer := AlikeIn fun s => s.seq.ret

theorem Alike.send {s u : State} (h : Alike s u) (k : Kind) (a : Nat) (p : List Byte) :
    SameAnswer (sendOp (encodeOp k a p s)) (sendOp (encodeOp k a p u)) :=
  h.after (g := fun s => sendOp (encodeOp k a p s)) (fun _ => rfl) fun _ => rfl

theorem Alike.enterMapped {s u : State} (h : Alike s u) : SameAnswer (mapOp s) (mapOp u) :=
  h.after (fun _ => rfl) fun _ => rfl

theorem Alike.abort {s u : State} (h : Alike s u) : SameAnswer (abortOp s) (abortOp u) :=
  h.after (fun _ => rfl) fun _ => rfl

/-- Two comparators in the same poll: P_SAMPLE and HIT may differ until a sample is taken (R29, R131). -/
def SamePoll (p q : Poller) : Prop :=
  q = { p with sample := q.sample, hit := q.hit } ∧ (p.count ≠ 0 → q.sample = p.sample)

theorem samePoll_takeSample {p q : Poller} (h : SamePoll p q) (b : Byte) : takeSample b q = takeSample b p := by
  rw [h.1]; rfl

theorem samePoll_pollLoop (d : Draw) (tick n : Nat) {p q : Poller} (h : SamePoll p q) :
    (pollLoop d tick n q).1 = (pollLoop d tick n p).1 ∧ SamePoll (pollLoop d tick n p).2 (pollLoop d tick n q).2 := by
  cases n with
  | zero => exact ⟨rfl, h⟩
  | succ n =>
    have hc : q.count = p.count := by rw [h.1]
    unfold pollLoop
    rw [hc, samePoll_takeSample h]
    split_ifs
    · exact ⟨rfl, h⟩
    · exact ⟨rfl, rfl, fun _ => rfl⟩

theorem samePoll_loadSpec (spec : PollSpec) (p q : Poller) : SamePoll (loadSpec spec p) (loadSpec spec q) :=
  ⟨rfl, fun h => absurd rfl h⟩

theorem SamePoll.latchSeen {p q : Poller} (h : SamePoll p q) (cat : Catalog) (known : Latch) :
    latchSeen cat q known = latchSeen cat p known := by
  obtain ⟨hq, hs⟩ := h
  have hc : q.count = p.count := by rw [hq]
  unfold Machine.latchSeen
  by_cases h0 : p.count = 0
  · rw [hc, if_pos h0, if_pos h0]
  · rw [hc, hs h0]

theorem SamePoll.devicePoll {p q : Poller} (h : SamePoll p q) (c : Cfg) (an : Answer) (spec : PollSpec) (d : Device) :
    devicePoll c an spec q d = devicePoll c an spec p d := by
  unfold Machine.devicePoll
  rw [h.latchSeen]

theorem Alike.poll {s u : State} (h : Alike s u) (spec : PollSpec) : SameAnswer (pollOp spec s) (pollOp spec u) := by
  have hp (s : State) : (pollOp spec (visible s)).seq.ret = (pollOp spec s).seq.ret ∧
      SamePoll (pollOp spec s).pol (pollOp spec (visible s)).pol :=
    samePoll_pollLoop _ _ _ (samePoll_loadSpec spec s.pol (visible s).pol)
  refine h.after (fun s => ?_) fun s => (hp s).1
  obtain ⟨hret, hpol⟩ := hp s
  have e (t : State) : visible (pollOp spec t) = { visible t with
      dev := consumeDraw (devicePoll t.cfg (pollOp spec t).seq.ret spec (pollOp spec t).pol t.dev)
      trace := t.trace ++ [.poll (encodeCmd t.cfg.cat .readStatus 0 []) spec (pollOp spec t).seq.ret] } := rfl
  rw [Alike, e, e, hret, hpol.devicePoll]
  rfl

theorem runsAlike_orFail {s u : State} (h : SameAnswer s u) (ea : Word) :
    RunsAlike Alike (orFail ea s) (orFail ea u) := by
  obtain ⟨hv, (hr : u.seq.ret = s.seq.ret)⟩ := h
  unfold orFail
  rw [hr]
  split_ifs
  · exact .going hv
  · exact .ended (sameEnd_fail hv _ _)

theorem runsAlike_orInitError {s u : State} (h : SameAnswer s u) : RunsAlike Alike (orInitError s) (orInitError u) := by
  obtain ⟨hv, (hr : u.seq.ret = s.seq.ret)⟩ := h
  unfold orInitError
  rw [hr]
  split_ifs
  · exact .going hv
  · exact .ended (sameEnd_fail hv _ _)

theorem runsAlike_ensureIndirect {s u : State} (h : Alike s u) (ea : Word) :
    RunsAlike Alike (ensureIndirect ea s) (ensureIndirect ea u) := by
  unfold ensureIndirect
  rw [h.mode]
  split_ifs
  · exact runsAlike_orFail h.abort ea
  · exact .going h

theorem runsAlike_ensureMapped {s u : State} (h : Alike s u) (ea : Word) :
    RunsAlike Alike (ensureMapped ea s) (ensureMapped ea u) := by
  unfold ensureMapped
  rw [h.mode]
  split_ifs
  · exact runsAlike_orFail h.enterMapped ea
  · exact .going h

theorem runsAlike_wcmd {s u : State} (h : Alike s u) (k : Kind) (a : Nat) (payload : List Byte) (t ea : Word) :
    RunsAlike Alike (wcmd k a payload t ea s) (wcmd k a payload t ea u) := by
  refine (runsAlike_orFail (h.send .writeEnable 0 []) ea).andThen fun s u h => ?_
  rw [h.cfg]
  refine (runsAlike_orFail ((h.setEState .welPending).poll _) ea).andThen fun s u h => ?_
  refine (runsAlike_orFail ((h.setEState .cmdIssued).send k a payload) ea).andThen fun s u h => ?_
  rw [h.cfg]
  refine (runsAlike_orFail ((h.setEState .busyPolling).poll _) ea).andThen fun s u h => ?_
  exact .going (h.setEState .idle)

/-! WCMD writes the registers of no unit but the comparator's, so the loops find theirs as they left them. -/

theorem wcmd_spl (k : Kind) (a : Nat) (payload : List Byte) (t ea : Word) (s : State) :
    (runState (wcmd k a payload t ea s)).spl = s.spl :=
  frame_wcmd (w := [.request, .poller]) (by decide) (by decide) k a payload t ea s .splitter (by decide)

theorem wcmd_ers (k : Kind) (a : Nat) (payload : List Byte) (t ea : Word) (s : State) :
    (runState (wcmd k a payload t ea s)).ers = s.ers :=
  frame_wcmd (w := [.request, .poller]) (by decide) (by decide) k a payload t ea s .eraser (by decide)

/-! ### Requests -/

/-- A request's lines end alike from alike states. -/
def ReadsNoEarlierRegister (body : State → State) : Prop := ∀ s u, Alike s u → SameEnd (body s) (body u)

theorem readsNoEarlierRegister_eraseAllBody : ReadsNoEarlierRegister eraseAllBody := fun s u h => by
  refine RunsAlike.finish (R := Alike) ((runsAlike_ensureIndirect h 0).andThen fun s u h => ?_)
    fun s u h => sameEnd_respond h _
  rw [h.cfg]
  exact runsAlike_wcmd h _ _ _ _ _

theorem runsAlike_initSend {s u : State} (h : Alike s u) (k : Kind) : RunsAlike Alike (initSend k s) (initSend k u) :=
  runsAlike_orInitError (h.send k 0 [])

theorem runsAlike_ite (c : Prop) [Decidable c] {s u : State} {f : State → Run} (h : Alike s u)
    (hf : RunsAlike Alike (f s) (f u)) :
    RunsAlike Alike (if c then f s else .going s) (if c then f u else .going u) := by
  split_ifs
  · exact hf
  · exact .going h

theorem runsAlike_initLines {s u : State} (h : Alike s u) : RunsAlike Alike (initLines s) (initLines u) := by
  unfold initLines
  rw [h.mode]
  refine (runsAlike_ite (f := fun s => orInitError (abortOp s)) _ h (runsAlike_orInitError h.abort)).andThen
    fun s u h => ?_
  rw [h.cfg]
  refine (runsAlike_ite _ h (runsAlike_initSend h _)).andThen fun s u h => ?_
  refine (runsAlike_initSend h _).andThen fun s u h => ?_
  rw [h.cfg]
  refine (runsAlike_orInitError (h.poll _)).andThen fun s u h => ?_
  rw [h.cfg]
  refine (runsAlike_ite _ h (runsAlike_initSend h _)).andThen fun s u h => ?_
  rw [h.cfg]
  exact runsAlike_ite (f := fun s => orInitError (mapOp s)) _ h (runsAlike_orInitError h.enterMapped)

theorem readsNoEarlierRegister_initBody : ReadsNoEarlierRegister initBody := fun s u h => by
  refine (runsAlike_initLines (h.map (f := fun s => { s with initDone := false }) fun _ => rfl)).finish fun s u h => ?_
  exact sameEnd_respond (h.map (f := fun s => { s with initDone := true }) fun _ => rfl) _

theorem runsAlike_eraseSector {s u : State} (h : AlikeIn State.ers s u) :
    RunsAlike (AlikeIn State.ers) (eraseSector s) (eraseSector u) := by
  obtain ⟨hv, he⟩ := h
  unfold eraseSector
  rw [he, hv.cfg]
  refine ((runsAlike_wcmd hv _ _ _ _ _).keeps (·.ers) (wcmd_ers _ _ _ _ _ s) (wcmd_ers _ _ _ _ _ u)
    he).andThen fun s u h => ?_
  obtain ⟨hv, he⟩ := h
  refine .going ⟨?_, ?_⟩
  · exact hv.map (f := fun s => { s with ers := _ }) fun _ => rfl
  · simp only [he, hv.cfg]

theorem runsAlike_eraseLoop (n : Nat) {s u : State} (h : AlikeIn State.ers s u) :
    RunsAlike (AlikeIn State.ers) (eraseLoop n s) (eraseLoop n u) := by
  induction n generalizing s u with
  | zero => exact .going h
  | succ n ih =>
    unfold eraseLoop
    rw [h.2]
    split_ifs
    · exact (runsAlike_eraseSector h).andThen fun s u h => ih h
    · exact .going h

theorem readsNoEarlierRegister_eraseRangeBody (start length : Word) :
    ReadsNoEarlierRegister (eraseRangeBody start length) := fun s u h => by
  refine RunsAlike.finish (R := AlikeIn State.ers) ((runsAlike_ensureIndirect h start).andThen fun s u h => ?_)
    fun s u h => sameEnd_respond h.1 _
  have hs : AlikeIn State.ers (eraseStart start length s) (eraseStart start length u) :=
    h.after (fun _ => rfl) fun _ => rfl
  unfold eraseRun
  rw [hs.2]
  exact runsAlike_eraseLoop _ hs

theorem readPayload_visible (n : Nat) (a : Word) (s : State) :
    readPayload n a (visible s) = ((readPayload n a s).1, visible (readPayload n a s).2) := by
  induction n generalizing a s with
  | zero => rfl
  | succ n ih =>
    have hr : ramReadOp a (visible s) = visible (ramReadOp a s) := rfl
    simp only [readPayload, hr, ih]
    rfl

theorem Alike.readPayload {s u : State} (h : Alike s u) (n : Nat) (a : Word) :
    (readPayload n a u).1 = (readPayload n a s).1 ∧ Alike (readPayload n a s).2 (readPayload n a u).2 :=
  ⟨h.read (f := fun s => (Machine.readPayload n a s).1) fun s => by rw [readPayload_visible],
    h.map (f := fun s => (Machine.readPayload n a s).2) fun s => by rw [readPayload_visible]; rfl⟩

theorem readPayload_spl (n : Nat) (a : Word) (s : State) : (readPayload n a s).2.spl = s.spl :=
  frame_readPayload (w := []) n a s .splitter (by decide)

theorem runsAlike_programChunk (start buf : Word) {s u : State} (h : AlikeIn State.spl s u) :
    RunsAlike (AlikeIn State.spl) (programChunk start buf s) (programChunk start buf u) := by
  obtain ⟨hv, hs⟩ := h
  unfold programChunk
  simp only
  rw [hs, hv.cfg]
  obtain ⟨hbytes, hread⟩ := hv.readPayload s.spl.chunk.toNat (buf + (s.spl.cursor - start))
  rw [hbytes]
  refine ((runsAlike_wcmd hread _ _ _ _ _).keeps (·.spl) (wcmd_spl _ _ _ _ _ _) (wcmd_spl _ _ _ _ _ _)
    (by simp only [readPayload_spl, hs])).andThen fun s u h => ?_
  obtain ⟨hv, hs⟩ := h
  refine .going ⟨?_, ?_⟩
  · exact hv.map fun _ => rfl
  · simp only [advanceChunk_spl, hs, hv.cfg]

theorem runsAlike_programLoop (start buf : Word) (n : Nat) {s u : State} (h : AlikeIn State.spl s u) :
    RunsAlike (AlikeIn State.spl) (programLoop start buf n s) (programLoop start buf n u) := by
  induction n generalizing s u with
  | zero => exact .going h
  | succ n ih =>
    unfold programLoop
    rw [h.2]
    split_ifs
    · exact .going h
    · exact (runsAlike_programChunk start buf h).andThen fun s u h => ih h

theorem readsNoEarlierRegister_programBody (start length buf : Word) :
    ReadsNoEarlierRegister (programBody start length buf) := fun s u h => by
  unfold programBody
  split_ifs
  · exact sameEnd_respond h _
  · refine RunsAlike.finish (R := AlikeIn State.spl) ((runsAlike_ensureIndirect h start).andThen fun s u h => ?_)
      fun s u h => sameEnd_respond h.1 _
    exact runsAlike_programLoop _ _ _ (h.after (fun _ => rfl) fun _ => rfl)

theorem alikeIn_checksumWord {s u : State} (h : AlikeIn State.cks s u) :
    AlikeIn State.cks (checksumWord s) (checksumWord u) := by
  obtain ⟨hv, hc⟩ := h
  have hb (a : Nat) : readLanes a 4 u = readLanes a 4 s := hv.read (f := readLanes a 4) fun _ => rfl
  refine ⟨?_, by simp only [checksumWord_cks, hc, hb]⟩
  change Alike (memReadOp (s.cks.waddr.toNat + s.cks.cnt) 4 s) (memReadOp (u.cks.waddr.toNat + u.cks.cnt) 4 u)
  rw [hc]
  exact hv.map fun _ => rfl

theorem alikeIn_checksumLoop (n : Nat) {s u : State} (h : AlikeIn State.cks s u) :
    AlikeIn State.cks (checksumLoop n s) (checksumLoop n u) := by
  induction n generalizing s u with
  | zero => exact h
  | succ n ih =>
    unfold checksumLoop
    rw [h.2]
    split_ifs
    · exact ih (alikeIn_checksumWord h)
    · exact h

theorem alikeIn_checksumCore {s u : State} (h : Alike s u) (start length seed : Word) :
    AlikeIn State.cks (checksumCore start length seed s) (checksumCore start length seed u) :=
  alikeIn_checksumLoop _ (s := checksumStart start length seed s) (u := checksumStart start length seed u)
    (h.after (fun _ => rfl) fun _ => rfl)

theorem readsNoEarlierRegister_checksumBody (start length seed : Word) :
    ReadsNoEarlierRegister (checksumBody start length seed) := fun s u h => by
  unfold checksumBody
  split_ifs
  · exact sameEnd_respond h _
  · refine (runsAlike_ensureMapped h start).finish fun s u h => ?_
    obtain ⟨hv, hc⟩ := alikeIn_checksumCore h start length seed
    simp only
    rw [hc]
    exact sameEnd_respond hv _

theorem noteMismatch_mmAddr (start : Word) (s : State) : (noteMismatch start s).vfy.mmAddr = start + s.vfy.vidx := rfl

theorem Alike.noteMismatch {s u : State} (h : Alike s u) (start : Word) :
    Alike (noteMismatch start s) (noteMismatch start u) := h.map fun _ => rfl

/-- The loop of R205 reads VIDX, which is set before it. -/
theorem sameEnd_verifyLoop (start buf ck : Word) (n : Nat) {s u : State} (h : Alike s u)
    (hi : u.vfy.vidx = s.vfy.vidx) : SameEnd (verifyLoop start buf ck n s) (verifyLoop start buf ck n u) := by
  induction n generalizing s u with
  | zero => exact sameEnd_respond h _
  | succ n ih =>
    have hf (a : Nat) : readLanes a 1 u = readLanes a 1 s := h.read (f := readLanes a 1) fun _ => rfl
    have hr : u.host = s.host := h.read fun _ => rfl
    have hreads (a : Nat) (b : Word) : Alike (ramReadOp b (memReadOp a 1 s)) (ramReadOp b (memReadOp a 1 u)) :=
      h.map (f := fun s => ramReadOp b (memReadOp a 1 s)) fun _ => rfl
    unfold verifyLoop
    simp only
    rw [hi, hf, hr]
    split_ifs
    · refine ih ?_ ?_
      · exact hreads _ _
      · simp [hi]
    · simp only [noteMismatch_mmAddr, ramReadOp_vfy, memReadOp_vfy, hi]
      exact sameEnd_respond ((hreads _ _).noteMismatch start) _

theorem readsNoEarlierRegister_verifyBody (start length seed buf : Word) :
    ReadsNoEarlierRegister (verifyBody start length seed buf) := fun s u h => by
  unfold verifyBody
  split_ifs
  · exact sameEnd_respond h _
  · refine (runsAlike_ensureMapped h start).finish fun s u h => ?_
    obtain ⟨hv, hc⟩ := alikeIn_checksumCore h start length seed
    simp only
    rw [hc]
    exact sameEnd_verifyLoop _ _ _ _ (hv.map fun _ => rfl) rfl

/-- Every request is `runRequest` of a body that reads none of these registers. -/
theorem exec_request_readsNoEarlierRegister {i : Instr} (hi : isRequest i = true) :
    ∃ op needsInit extent body, (∀ s, exec i s = runRequest op needsInit extent body s) ∧
      ReadsNoEarlierRegister body := by
  cases i with
  | init => exact ⟨_, _, _, _, exec_init, readsNoEarlierRegister_initBody⟩
  | program start length buf =>
    exact ⟨_, _, _, _, exec_program start length buf, readsNoEarlierRegister_programBody start length buf⟩
  | eraseRange start length =>
    exact ⟨_, _, _, _, exec_eraseRange start length, readsNoEarlierRegister_eraseRangeBody start length⟩
  | eraseAll => exact ⟨_, _, _, _, exec_eraseAll, readsNoEarlierRegister_eraseAllBody⟩
  | checksum start length seed =>
    exact ⟨_, _, _, _, exec_checksum start length seed, readsNoEarlierRegister_checksumBody start length seed⟩
  | verify start length seed buf =>
    exact ⟨_, _, _, _, exec_verify start length seed buf, readsNoEarlierRegister_verifyBody start length seed buf⟩
  | resetEnable | reset | writeEnable | readStatus | pageProgram | sectorErase | chipErase | quadRead | enter4Byte
  | send | poll | map | abort => cases hi

theorem exec_request_alike {i : Instr} {s t u : State} (hi : isRequest i = true) (h : exec i s = .next t)
    (hu : Alike s u) : ∃ v, exec i u = .next v ∧ SameEnd t v := by
  obtain ⟨op, needsInit, extent, body, e, hb⟩ := exec_request_readsNoEarlierRegister hi
  obtain ⟨hr, rfl⟩ := runRequest_eq_next.1 ((e s).symm.trans h)
  have hru : requestRefusal needsInit extent u = none :=
    (hu.read (f := requestRefusal needsInit extent) fun _ => rfl).trans hr
  exact ⟨_, (e u).trans (runRequest_eq_next.2 ⟨hru, rfl⟩), hb _ _ (hu.accept op)⟩

/-- Settles O46: the two states are alike, so the two runs end alike and with the same response. -/
theorem requestsReadNoEarlierRegister : Obligations.RequestsReadNoEarlierRegister := by
  intro i s t spl ers cks vfy pol rsp cmd ret hi h
  obtain ⟨v, hx, hv, hr⟩ := exec_request_alike hi h (u := { s with
    spl := spl, ers := ers, cks := cks, vfy := vfy, pol := pol, rsp := rsp
    seq := { s.seq with cmd := cmd, ret := ret } }) rfl
  have hvt := alike_iff.1 hv
  rw [hr] at hvt
  exact ⟨v, hx, hvt⟩

end Sys2Proof.Machine
end

section
/-! PROOFS of the family 20_memory: which commands and window reads a request issues (R53 to R58), the order of the
calls around a program or erase (R66), the ranges R63 refuses, and the round trip of R67. -/

namespace Sys2Proof.Machine

/-! ## Refused ranges -/

theorem runRequest_of_overflow {s : State} {extent : Nat} (hw : s.cfg.wf = true) (hi : s.initDone = true)
    (hx : 2 ^ 32 - 1 < extent) (op : BitVec 4) (body : State → State) :
    runRequest op true extent body s = .refused .rangeOverflow := by
  have hr : requestRefusal true extent s = some .rangeOverflow := by simpa [requestRefusal, hw, hi] using hx
  simp only [runRequest, hr]

/-- Settles O39: the range check of `requestRefusal` is the only one that these requests fail. -/
theorem overflowingRangesAreRefused : Obligations.OverflowingRangesAreRefused := fun _ _ _ _ _ hw hi hx =>
  ⟨runRequest_of_overflow hw hi hx _ _, runRequest_of_overflow hw hi hx _ _, runRequest_of_overflow hw hi hx _ _,
    runRequest_of_overflow hw hi hx _ _⟩

/-! ## The trace of a request

Whatever the environment answers, the events of a request are a `RequestTrace` (`exec_requestTrace`), from which R54 to
R56 and R66 are read off. -/

/-- Every call among these events was answered OK. -/
def AllOk (es : List Event) : Prop := ∀ e ∈ es, answeredOk e = true

/-- An event that is no window read and sends no program or erase command. -/
def plainEvent : Event → Bool
  | .send cmd _ => !changesFlash cmd.kind
  | .memRd .. => false
  | .poll .. | .map .. | .abort _ | .ramRd .. => true

/-- `fs` are the calls `es` up to one that was not answered OK (R137). -/
def CutShort (es fs : List Event) : Prop :=
  ∃ n e r, es[n]? = some e ∧ r ≠ .ok ∧ fs = es.take n ++ [withAnswer e r]

/-- The program and erase commands a request may send, with their offset and payload: a PROGRAM chunks of its range
(R55, R152), an ERASE_RANGE sectors from `floor_S(start)` on (R56, R165), ERASE_ALL the chip erase (R168). -/
inductive Changes (cfg : Cfg) : Instr → Kind → Nat → List Byte → Prop where
  | program {start length buf : Word} {c : Nat} {payload : List Byte} (pos : 1 ≤ payload.length)
      (page : payload.length ≤ cfg.geom.pageSize.toNat - c % cfg.geom.pageSize.toNat)
      (first : start.toNat ≤ c) (last : c + payload.length ≤ start.toNat + length.toNat) :
      Changes cfg (.program start length buf) .pageProgram c payload
  | eraseRange {start length : Word} {e : Nat} (aligned : e % cfg.geom.sectorSize.toNat = 0)
      (first : floorTo cfg.geom.sectorSize.toNat start.toNat ≤ e) (last : e ≤ start.toNat + length.toNat) :
      Changes cfg (.eraseRange start length) .sectorErase e []
  | eraseAll : Changes cfg .eraseAll .chipErase 0 []

/-- The events of a request: plain events, window reads of R54 and R58, and elementary commands (R135), the last of
which may be cut short by a failing answer. Only a list whose calls were all answered OK is followed by more. -/
inductive RequestTrace (cfg : Cfg) (i : Instr) : List Event → Prop where
  | nil : RequestTrace cfg i []
  | plain {e : Event} (h : plainEvent e = true) : RequestTrace cfg i [e]
  | read {a : Nat} {bytes : List Byte} (h : bytes.length = 1 ∨ (bytes.length = 4 ∧ a % 4 = 0)) :
      RequestTrace cfg i [.memRd a bytes]
  | command {k : Kind} {a : Nat} {payload : List Byte} (tmo : Word) (h : Changes cfg i k a payload) :
      RequestTrace cfg i (wcmdTrace cfg.cat k a payload tmo)
  | failed {k : Kind} {a : Nat} {payload : List Byte} {tmo : Word} {es : List Event} (h : Changes cfg i k a payload)
      (cut : CutShort (wcmdTrace cfg.cat k a payload tmo) es) : RequestTrace cfg i es
  | append {es fs : List Event} (ok : AllOk es) (left : RequestTrace cfg i es) (right : RequestTrace cfg i fs) :
      RequestTrace cfg i (es ++ fs)

theorem AllOk.append {es fs : List Event} (h : AllOk es) (k : AllOk fs) : AllOk (es ++ fs) := fun e he =>
  (List.mem_append.1 he).elim (h e) (k e)

theorem allOk_nil : AllOk [] := by simp [AllOk]

theorem allOk_singleton {e : Event} (h : answeredOk e = true) : AllOk [e] := by simpa [AllOk] using h

theorem allOk_wcmdTrace (cat : Catalog) (k : Kind) (a : Nat) (payload : List Byte) (tmo : Word) :
    AllOk (wcmdTrace cat k a payload tmo) := by
  simp [AllOk, wcmdTrace, answeredOk, eventAnswer]

theorem answeredOk_of_answer {e : Event} (h : eventAnswer e = some .ok) : answeredOk e = true := by
  simp [answeredOk, h]

/-! ### Parts of a request -/

/-- From `s` to `t` the request `i` had these events, every call answered OK: it can go on. -/
def Went (i : Instr) (s t : State) : Prop :=
  t.cfg = s.cfg ∧ ∃ new, t.trace = s.trace ++ new ∧ AllOk new ∧ RequestTrace s.cfg i new

/-- From `s` to `t` the request `i` had these events; the last call may have failed. -/
def Ended (i : Instr) (s t : State) : Prop :=
  t.cfg = s.cfg ∧ ∃ new, t.trace = s.trace ++ new ∧ RequestTrace s.cfg i new

section
variable {i : Instr}

theorem Went.ended {s t : State} (h : Went i s t) : Ended i s t := by
  obtain ⟨hc, new, ht, -, hr⟩ := h
  exact ⟨hc, new, ht, hr⟩

theorem Went.thenEnded {s t u : State} (h : Went i s t) (k : Ended i t u) : Ended i s u := by
  obtain ⟨hc, es, ht, hok, hr⟩ := h
  obtain ⟨kc, fs, kt, kr⟩ := k
  exact ⟨kc.trans hc, es ++ fs, by rw [kt, ht, List.append_assoc], .append hok hr (hc ▸ kr)⟩

theorem Went.trans {s t u : State} (h : Went i s t) (k : Went i t u) : Went i s u := by
  obtain ⟨hc, es, ht, hok, hr⟩ := h
  obtain ⟨kc, fs, kt, kok, kr⟩ := k
  exact ⟨kc.trans hc, es ++ fs, by rw [kt, ht, List.append_assoc], hok.append kok, .append hok hr (hc ▸ kr)⟩

/-- A change of registers alone. -/
theorem went_of_eq {s t : State} (hc : t.cfg = s.cfg) (ht : t.trace = s.trace) : Went i s t :=
  ⟨hc, [], by simp [ht], allOk_nil, .nil⟩

theorem Went.refl (s : State) : Went i s s := went_of_eq rfl rfl

theorem went_respond (r : Response) (s : State) : Went i s (respond r s) :=
  went_of_eq (respond_cfg r s) (respond_trace r s)

theorem went_ramReadOp (a : Word) (s : State) : Went i s (ramReadOp a s) :=
  ⟨rfl, _, rfl, allOk_singleton rfl, .plain rfl⟩

theorem readLanes_length (a n : Nat) (s : State) : (readLanes a n s).length = n := by
  simp [readLanes, windowBytes]

theorem went_memReadOp {a n : Nat} (h : n = 1 ∨ (n = 4 ∧ a % 4 = 0)) (s : State) : Went i s (memReadOp a n s) :=
  ⟨rfl, _, rfl, allOk_singleton rfl, .read (by rwa [readLanes_length])⟩

/-- The run goes on or has ended, with these events since `s`. -/
def Run.Traces (i : Instr) (s : State) : Run → Prop
  | .going t => Went i s t
  | .ended t => Ended i s t

theorem Run.Traces.after {s t : State} {r : Run} (hr : r.Traces i t) (h : Went i s t) : r.Traces i s := by
  cases r with
  | going u => exact h.trans hr
  | ended u => exact h.thenEnded hr

theorem Run.Traces.andThen {s : State} {r : Run} {f : State → Run} (hr : r.Traces i s)
    (hf : ∀ t, r = .going t → (f t).Traces i t) : (andThen r f).Traces i s := by
  cases r with
  | going t => exact (hf t rfl).after hr
  | ended t => exact hr

theorem Run.Traces.finish {s : State} {r : Run} {f : State → State} (hr : r.Traces i s)
    (hf : ∀ t, r = .going t → Ended i t (f t)) : Ended i s (finish r f) := by
  cases r with
  | going t => exact Went.thenEnded hr (hf t rfl)
  | ended t => exact hr

theorem Run.Traces.finish_respond {s : State} {r : Run} (hr : r.Traces i s) (x : Response) :
    Ended i s (Machine.finish r (respond x)) :=
  hr.finish fun t _ => (went_respond x t).ended

/-! ### Calls -/

/-- `t` is `s` after one plain call, answered `t.seq.ret`. -/
def PlainCall (s t : State) : Prop :=
  t.cfg = s.cfg ∧ ∃ e, t.trace = s.trace ++ [e] ∧ plainEvent e = true ∧ eventAnswer e = some t.seq.ret

theorem PlainCall.ended {s t : State} (h : PlainCall s t) : Ended i s t := by
  obtain ⟨hc, e, ht, hp, -⟩ := h
  exact ⟨hc, [e], ht, .plain hp⟩

theorem PlainCall.went {s t : State} (h : PlainCall s t) (hok : t.seq.ret = .ok) : Went i s t := by
  obtain ⟨hc, e, ht, hp, ha⟩ := h
  exact ⟨hc, [e], ht, allOk_singleton (answeredOk_of_answer (ha.trans (congrArg some hok))), .plain hp⟩

theorem plainCall_send {k : Kind} (hk : changesFlash k = false) (a : Nat) (p : List Byte) (s : State) :
    PlainCall s (sendOp (encodeOp k a p s)) :=
  ⟨rfl, _, rfl, congrArg (! ·) hk, rfl⟩

theorem plainCall_poll (spec : PollSpec) (s : State) : PlainCall s (pollOp spec s) := ⟨rfl, _, rfl, rfl, rfl⟩

theorem plainCall_map (s : State) : PlainCall s (mapOp s) := ⟨rfl, _, rfl, rfl, rfl⟩

theorem plainCall_abort (s : State) : PlainCall s (abortOp s) := ⟨rfl, _, rfl, rfl, rfl⟩

theorem Ended.fail {s t : State} (h : Ended i s t) (k : Status) (a : Word) : Ended i s (fail k a t) := by
  rwa [Ended, fail_cfg, fail_trace]

theorem PlainCall.orFail {s t : State} (h : PlainCall s t) (ea : Word) : (orFail ea t).Traces i s := by
  obtain ⟨hok, e⟩ | ⟨-, e⟩ := orFail_cases ea t <;> rw [e]
  · exact h.went hok
  · exact h.ended.fail _ _

theorem PlainCall.orInitError {s t : State} (h : PlainCall s t) : (orInitError t).Traces i s := by
  obtain ⟨hok, e⟩ | ⟨-, e⟩ := orInitError_cases t <;> rw [e]
  · exact h.went hok
  · exact h.ended.fail _ _

theorem traces_ensureIndirect (ea : Word) (s : State) : (ensureIndirect ea s).Traces i s := by
  unfold ensureIndirect
  split_ifs
  · exact (plainCall_abort s).orFail ea
  · exact .refl s

theorem traces_ensureMapped (ea : Word) (s : State) : (ensureMapped ea s).Traces i s := by
  unfold ensureMapped
  split_ifs
  · exact (plainCall_map s).orFail ea
  · exact .refl s

/-! ### The elementary command -/

theorem wcmdSent_trace (s : State) :
    (wcmdSent s).trace = s.trace ++ [.send (encodeCmd s.cfg.cat .writeEnable 0 []) (wcmdSent s).seq.ret] := rfl

theorem wcmdEnabled_trace (s : State) :
    (wcmdEnabled s).trace = (wcmdSent s).trace ++
      [.poll (encodeCmd s.cfg.cat .readStatus 0 []) (welWait s.cfg.cat) (wcmdEnabled s).seq.ret] := by
  simp [wcmdEnabled, wcmdSent]

theorem wcmdIssued_trace (k : Kind) (a : Nat) (payload : List Byte) (s : State) :
    (wcmdIssued k a payload s).trace = (wcmdEnabled s).trace ++
      [.send (encodeCmd s.cfg.cat k a payload) (wcmdIssued k a payload s).seq.ret] := by
  simp [wcmdIssued, wcmdEnabled, wcmdSent]

theorem wcmdDone_trace (k : Kind) (a : Nat) (payload : List Byte) (t : Word) (s : State) :
    (wcmdDone k a payload t s).trace = (wcmdIssued k a payload s).trace ++
      [.poll (encodeCmd s.cfg.cat .readStatus 0 []) (wipWait s.cfg.cat t) (wcmdDone k a payload t s).seq.ret] := by
  simp [wcmdDone, wcmdIssued, wcmdEnabled, wcmdSent]

theorem wcmdDone_cfg (k : Kind) (a : Nat) (payload : List Byte) (t : Word) (s : State) :
    (wcmdDone k a payload t s).cfg = s.cfg := by
  simp [wcmdDone, wcmdIssued, wcmdEnabled, wcmdSent]

theorem wcmd_cfg (k : Kind) (a : Nat) (payload : List Byte) (t ea : Word) (s : State) :
    (runState (wcmd k a payload t ea s)).cfg = s.cfg :=
  (extends_of_steps (steps_wcmd (b := false) k a payload t ea s)).cfg

/-- WCMD writes neither the configuration nor the registers of the two loops that run it. -/
theorem wcmd_going {k : Kind} {a : Nat} {payload : List Byte} {t ea : Word} {s u : State}
    (h : wcmd k a payload t ea s = .going u) : u.cfg = s.cfg ∧ u.spl = s.spl ∧ u.ers = s.ers := by
  have hc := wcmd_cfg k a payload t ea s
  have hs := wcmd_spl k a payload t ea s
  have he := wcmd_ers k a payload t ea s
  rw [h] at hc hs he
  exact ⟨hc, hs, he⟩

/-- WCMD appends its four events, or stops at the first that is not answered OK (R135, R137). -/
theorem wcmd_trace (k : Kind) (a : Nat) (payload : List Byte) (t ea : Word) (s : State) :
    (∃ u, wcmd k a payload t ea s = .going u ∧ u.trace = s.trace ++ wcmdTrace s.cfg.cat k a payload t) ∨
      ∃ u es, wcmd k a payload t ea s = .ended u ∧ u.trace = s.trace ++ es ∧
        CutShort (wcmdTrace s.cfg.cat k a payload t) es := by
  obtain ⟨h1, e⟩ | ⟨h1, h2, e⟩ | ⟨h1, h2, h3, e⟩ | ⟨h1, h2, h3, h4, e⟩ | ⟨h1, h2, h3, h4, e⟩ :=
    wcmd_cases k a payload t ea s
  · refine .inr ⟨_, _, e, ?_, 0, _, _, rfl, h1, rfl⟩
    simp [failLast, wcmdSent_trace, withAnswer]
  · refine .inr ⟨_, _, e, ?_, 1, _, _, rfl, h2, rfl⟩
    simp [failLast, wcmdSent_trace, wcmdEnabled_trace, h1, wcmdTrace, withAnswer]
  · refine .inr ⟨_, _, e, ?_, 2, _, _, rfl, h3, rfl⟩
    simp [failLast, wcmdSent_trace, wcmdEnabled_trace, wcmdIssued_trace, h1, h2, wcmdTrace, withAnswer]
  · refine .inr ⟨_, _, e, ?_, 3, _, _, rfl, h4, rfl⟩
    simp [failLast, wcmdSent_trace, wcmdEnabled_trace, wcmdIssued_trace, wcmdDone_trace, h1, h2, h3, wcmdTrace,
      withAnswer]
  · refine .inl ⟨_, e, ?_⟩
    simp [wcmdSent_trace, wcmdEnabled_trace, wcmdIssued_trace, wcmdDone_trace, h1, h2, h3, h4, wcmdTrace]

theorem traces_wcmd {k : Kind} {a : Nat} {payload : List Byte} {s : State} (h : Changes s.cfg i k a payload)
    (t ea : Word) : (wcmd k a payload t ea s).Traces i s := by
  have hc := wcmd_cfg k a payload t ea s
  obtain ⟨u, e, hu⟩ | ⟨u, es, e, hu, hcut⟩ := wcmd_trace k a payload t ea s <;> rw [e] at hc ⊢
  · exact ⟨hc, _, hu, allOk_wcmdTrace _ _ _ _ _, .command t h⟩
  · exact ⟨hc, es, hu, .failed h hcut⟩

end

/-! ### INIT -/

theorem traces_initSend {i : Instr} {k : Kind} (hk : changesFlash k = false) (s : State) : (initSend k s).Traces i s :=
  (plainCall_send hk 0 [] s).orInitError

theorem traces_ite {i : Instr} (c : Prop) [Decidable c] {s : State} {r : Run} (h : r.Traces i s) :
    (if c then r else .going s).Traces i s := by
  split_ifs
  · exact h
  · exact .refl s

theorem traces_initLines {i : Instr} (s : State) : (initLines s).Traces i s := by
  refine (traces_ite _ (plainCall_abort s).orInitError).andThen fun s _ => ?_
  refine (traces_ite _ (traces_initSend rfl s)).andThen fun s _ => ?_
  refine (traces_initSend rfl s).andThen fun s _ => ?_
  refine (plainCall_poll _ s).orInitError.andThen fun s _ => ?_
  refine (traces_ite _ (traces_initSend rfl s)).andThen fun s _ => ?_
  exact traces_ite _ (plainCall_map s).orInitError

theorem ended_initBody {i : Instr} (s : State) : Ended i s (initBody s) :=
  (traces_initLines (i := i) { s with initDone := false }).finish fun t _ =>
    (went_respond okResponse { t with initDone := true }).ended

/-! ### ERASE_ALL and ERASE_RANGE -/

theorem ended_eraseAllBody (s : State) : Ended .eraseAll s (eraseAllBody s) :=
  ((traces_ensureIndirect 0 s).andThen fun _ _ => traces_wcmd .eraseAll _ _).finish_respond _

/-- ECURSOR stands at a sector boundary, from `floor_S(start)` on, and EEND at the end of the range (R165, R166). -/
structure EraseAt (start length : Word) (s : State) : Prop where
  aligned : s.ers.ecursor % s.cfg.geom.sectorSize.toNat = 0
  first : floorTo s.cfg.geom.sectorSize.toNat start.toNat ≤ s.ers.ecursor
  eend : s.ers.eend = start.toNat + length.toNat

theorem floorTo_mod (k a : Nat) : floorTo k a % k = 0 := by
  rw [floorTo, ← Nat.mul_div_self_eq_mod_sub_self, Nat.mul_mod_right]

theorem eraseAt_eraseStart (start length : Word) (s : State) : EraseAt start length (eraseStart start length s) :=
  ⟨floorTo_mod _ _, Nat.le_refl _, rfl⟩

/-- A sector that was erased leaves ECURSOR at the next one (R165). -/
theorem eraseSector_going {s t : State} (h : eraseSector s = .going t) :
    t.cfg = s.cfg ∧ t.ers = { s.ers with ecursor := s.ers.ecursor + s.cfg.geom.sectorSize.toNat } := by
  obtain ⟨u, hu, e⟩ := andThen_eq_going.1 h
  obtain rfl := Run.going.inj e
  obtain ⟨hc, -, he⟩ := wcmd_going hu
  exact ⟨hc, by simp only [he, hc]⟩

theorem EraseAt.next {start length : Word} {s t : State} (h : EraseAt start length s)
    (ht : eraseSector s = .going t) : EraseAt start length t := by
  obtain ⟨hc, he⟩ := eraseSector_going ht
  refine ⟨?_, ?_, ?_⟩
  · rw [hc, he, Nat.add_mod_right, h.aligned]
  · rw [hc, he]; exact h.first.trans (Nat.le_add_right _ _)
  · rw [he]; exact h.eend

theorem traces_eraseSector {start length : Word} {s : State} (h : EraseAt start length s)
    (hle : s.ers.ecursor ≤ s.ers.eend) : (eraseSector s).Traces (.eraseRange start length) s :=
  (traces_wcmd (.eraseRange h.aligned h.first (h.eend ▸ hle)) _ _).andThen fun _ _ => went_of_eq rfl rfl

theorem traces_eraseLoop {start length : Word} (n : Nat) {s : State} (h : EraseAt start length s) :
    (eraseLoop n s).Traces (.eraseRange start length) s := by
  induction n generalizing s with
  | zero => exact .refl s
  | succ n ih =>
    unfold eraseLoop
    split_ifs with hle
    · exact (traces_eraseSector h hle).andThen fun t ht => ih (h.next ht)
    · exact .refl s

theorem ended_eraseRangeBody (start length : Word) (s : State) :
    Ended (.eraseRange start length) s (eraseRangeBody start length s) :=
  ((traces_ensureIndirect start s).andThen fun t _ =>
    (traces_eraseLoop _ (eraseAt_eraseStart start length t)).after (went_of_eq rfl rfl)).finish_respond _

/-! ### PROGRAM -/

theorem pageSize_pos {cfg : Cfg} (h : cfg.wf = true) : 1 ≤ cfg.geom.pageSize.toNat := by
  simp only [Cfg.wf, geometryOk, Bool.and_eq_true, decide_eq_true_eq] at h
  obtain ⟨⟨⟨⟨hpage, -⟩, -⟩, -⟩, -⟩ := h
  exact hpage

/-- The splitter's registers between two chunks of a PROGRAM: what is left of the range stands from CURSOR on, and
CHUNK goes to the end of CURSOR's page or of the range (R150, R152). -/
structure SplitAt (start length : Word) (s : State) : Prop where
  page : 1 ≤ s.cfg.geom.pageSize.toNat
  fits : start.toNat + length.toNat ≤ 2 ^ 32 - 1
  first : start.toNat ≤ s.spl.cursor.toNat
  last : s.spl.cursor.toNat + s.spl.remain.toNat = start.toNat + length.toNat
  chunk : s.spl.chunk.toNat =
    min (s.cfg.geom.pageSize.toNat - s.spl.cursor.toNat % s.cfg.geom.pageSize.toNat) s.spl.remain.toNat

theorem firstChunk_toNat {p : Word} (hp : 1 ≤ p.toNat) (start length : Word) :
    (firstChunk p start length).toNat = min (p.toNat - start.toNat % p.toNat) length.toNat := by
  have hlt := Nat.mod_lt start.toNat hp
  have hsub : (p - start % p).toNat = p.toNat - start.toNat % p.toNat :=
    BitVec.toNat_sub_of_le (BitVec.le_def.2 (by rw [BitVec.toNat_umod]; exact hlt.le))
  unfold firstChunk
  simp only [BitVec.lt_def, hsub]
  split_ifs <;> omega

theorem nextChunk_toNat (p remain : Word) : (nextChunk p remain).toNat = min p.toNat remain.toNat := by
  unfold nextChunk
  simp only [BitVec.lt_def]
  split_ifs <;> omega

theorem splitAt_splitStart {start length : Word} {s : State} (hp : 1 ≤ s.cfg.geom.pageSize.toNat)
    (hfit : start.toNat + length.toNat ≤ 2 ^ 32 - 1) : SplitAt start length (splitStart start length s) :=
  ⟨hp, hfit, Nat.le_refl _, rfl, firstChunk_toNat hp start length⟩

theorem SplitAt.chunk_pos {start length : Word} {s : State} (h : SplitAt start length s) (hr : s.spl.remain ≠ 0) :
    1 ≤ s.spl.chunk.toNat := by
  have hlt := Nat.mod_lt s.spl.cursor.toNat h.page
  have hpos : s.spl.remain.toNat ≠ 0 := fun h0 => hr (BitVec.eq_of_toNat_eq h0)
  rw [h.chunk]
  omega

theorem SplitAt.cursor_add {start length : Word} {s : State} (h : SplitAt start length s) :
    (s.spl.cursor + s.spl.chunk).toNat = s.spl.cursor.toNat + s.spl.chunk.toNat := by
  have := h.chunk
  have := h.last
  have := h.fits
  rw [BitVec.toNat_add, Nat.mod_eq_of_lt (by omega)]

theorem SplitAt.remain_sub {start length : Word} {s : State} (h : SplitAt start length s) :
    (s.spl.remain - s.spl.chunk).toNat = s.spl.remain.toNat - s.spl.chunk.toNat :=
  BitVec.toNat_sub_of_le (BitVec.le_def.2 (by rw [h.chunk]; exact Nat.min_le_right _ _))

/-- A chunk that is not the last one ends its page (R152). -/
theorem add_pageRest_mod {p c : Nat} (hp : 1 ≤ p) : (c + (p - c % p)) % p = 0 := by
  have hlt := Nat.mod_lt c hp
  have hc := Nat.mod_add_div c p
  have e : c + (p - c % p) = p * (c / p + 1) := by rw [Nat.mul_add]; omega
  rw [e, Nat.mul_mod_right]

theorem SplitAt.advance {start length : Word} {s : State} (h : SplitAt start length s) :
    SplitAt start length (advanceChunk s) := by
  have hc := h.chunk
  refine ⟨h.page, h.fits, ?_, ?_, ?_⟩
  · rw [advanceChunk_spl, h.cursor_add]
    exact h.first.trans (Nat.le_add_right _ _)
  · rw [advanceChunk_spl, h.cursor_add, h.remain_sub]
    have := h.last
    omega
  · simp only [advanceChunk_spl, advanceChunk_cfg, nextChunk_toNat, h.cursor_add, h.remain_sub]
    by_cases hlast : s.spl.remain.toNat ≤ s.spl.chunk.toNat
    · omega
    · have hm : s.spl.chunk.toNat =
          s.cfg.geom.pageSize.toNat - s.spl.cursor.toNat % s.cfg.geom.pageSize.toNat := by omega
      rw [hm, add_pageRest_mod h.page, Nat.sub_zero]

theorem SplitAt.of_eq {start length : Word} {s t : State} (h : SplitAt start length s) (hc : t.cfg = s.cfg)
    (hs : t.spl = s.spl) : SplitAt start length t := by
  obtain ⟨hp, hfit, hfirst, hlast, hchunk⟩ := h
  refine ⟨?_, hfit, ?_, ?_, ?_⟩ <;> simpa only [hc, hs]

theorem went_readPayload {i : Instr} (n : Nat) (a : Word) (s : State) : Went i s (readPayload n a s).2 := by
  induction n generalizing a s with
  | zero => exact .refl s
  | succ n ih => exact (went_ramReadOp a s).trans (ih (a + 1) (ramReadOp a s))

/-- The payload of a chunk: `n` RAM bytes from `a` on (R150). -/
theorem readPayload_bytes (n : Nat) (a : Word) (s : State) :
    (readPayload n a s).1 = (List.range n).map fun j => ramByte s.host.ram (a + BitVec.ofNat 32 j) := by
  induction n generalizing a s with
  | zero => rfl
  | succ n ih =>
    rw [List.range_succ_eq_map, List.map_cons, List.map_map]
    have hcons : (readPayload (n + 1) a s).1 = ramByte s.host.ram a :: (readPayload n (a + 1) (ramReadOp a s)).1 := rfl
    rw [hcons, ih, ramReadOp_host]
    congr 1
    · simp
    · refine List.map_congr_left fun j _ => ?_
      rw [Function.comp_apply, Nat.succ_eq_add_one, Nat.add_comm, BitVec.ofNat_add, ← BitVec.add_assoc]
      rfl

theorem readPayload_length (n : Nat) (a : Word) (s : State) : (readPayload n a s).1.length = n := by
  simp [readPayload_bytes]

/-- The elementary command of a chunk. -/
theorem SplitAt.changes {start length : Word} {s : State} (h : SplitAt start length s) (hr : s.spl.remain ≠ 0)
    (buf a : Word) : Changes s.cfg (.program start length buf) .pageProgram s.spl.cursor.toNat
      (readPayload s.spl.chunk.toNat a s).1 := by
  have hchunk := h.chunk
  have hlast := h.last
  refine .program ?_ ?_ h.first ?_ <;> rw [readPayload_length]
  · exact h.chunk_pos hr
  · omega
  · omega

theorem programChunk_going {start length buf : Word} {s t : State} (h : SplitAt start length s)
    (ht : programChunk start buf s = .going t) : SplitAt start length t := by
  obtain ⟨u, hu, e⟩ := andThen_eq_going.1 ht
  obtain rfl := Run.going.inj e
  obtain ⟨hc, hs, -⟩ := wcmd_going hu
  have hcfg : u.cfg = s.cfg := hc.trans (went_readPayload (i := .init) _ _ s).1
  exact (h.of_eq hcfg (hs.trans (readPayload_spl _ _ s))).advance

theorem traces_programChunk {start length buf : Word} {s : State} (h : SplitAt start length s)
    (hr : s.spl.remain ≠ 0) : (programChunk start buf s).Traces (.program start length buf) s := by
  have hread := went_readPayload (i := .program start length buf) s.spl.chunk.toNat (buf + (s.spl.cursor - start)) s
  refine Run.Traces.andThen ?_ fun _ _ => went_of_eq rfl rfl
  exact (traces_wcmd (hread.1 ▸ h.changes hr buf _) _ _).after hread

theorem traces_programLoop {start length buf : Word} (n : Nat) {s : State} (h : SplitAt start length s) :
    (programLoop start buf n s).Traces (.program start length buf) s := by
  induction n generalizing s with
  | zero => exact .refl s
  | succ n ih =>
    unfold programLoop
    split_ifs with hr
    · exact .refl s
    · exact (traces_programChunk h hr).andThen fun t ht => ih (programChunk_going h ht)

theorem ended_programBody {start length : Word} (buf : Word) {s : State} (hw : s.cfg.wf = true)
    (hfit : start.toNat + length.toNat ≤ 2 ^ 32 - 1) :
    Ended (.program start length buf) s (programBody start length buf s) := by
  unfold programBody
  split_ifs
  · exact (went_respond _ s).ended
  · refine Run.Traces.finish_respond ?_ _
    have htoggle := traces_ensureIndirect (i := .program start length buf) start s
    refine htoggle.andThen fun t ht => ?_
    rw [ht] at htoggle
    exact (traces_programLoop _ (splitAt_splitStart (pageSize_pos (htoggle.1 ▸ hw)) hfit)).after (went_of_eq rfl rfl)

/-! ### CHECKSUM and VERIFY -/

theorem went_checksumWord {i : Instr} {s : State} (h : (s.cks.waddr.toNat + s.cks.cnt) % 4 = 0) :
    Went i s (checksumWord s) :=
  (went_memReadOp (.inr ⟨rfl, h⟩) s).trans (went_of_eq rfl rfl)

/-- WADDR + CNT stays word-aligned (R54, R197). -/
theorem went_checksumLoop {i : Instr} (n : Nat) {s : State} (h : (s.cks.waddr.toNat + s.cks.cnt) % 4 = 0) :
    Went i s (checksumLoop n s) := by
  induction n generalizing s with
  | zero => exact .refl s
  | succ n ih =>
    unfold checksumLoop
    split_ifs
    · refine (went_checksumWord h).trans (ih ?_)
      rw [checksumWord_cks, addWord, ← Nat.add_assoc, Nat.add_mod_right, h]
    · exact .refl s

theorem checksumStart_aligned (start length seed : Word) (s : State) :
    ((checksumStart start length seed s).cks.waddr.toNat + (checksumStart start length seed s).cks.cnt) % 4 = 0 := by
  simp only [checksumStart, BitVec.toNat_ofNat]
  have := floorTo_mod 4 start.toNat
  omega

theorem went_checksumCore {i : Instr} (start length seed : Word) (s : State) :
    Went i s (checksumCore start length seed s) :=
  (went_of_eq (t := checksumStart start length seed s) rfl rfl).trans
    (went_checksumLoop _ (checksumStart_aligned start length seed s))

theorem ended_checksumBody {i : Instr} (start length seed : Word) (s : State) :
    Ended i s (checksumBody start length seed s) := by
  unfold checksumBody
  split_ifs
  · exact (went_respond _ s).ended
  · exact (traces_ensureMapped start s).finish fun t _ =>
      ((went_checksumCore start length seed t).trans (went_respond _ _)).ended

theorem went_verifyLoop {i : Instr} (start buf ck : Word) (n : Nat) (s : State) :
    Went i s (verifyLoop start buf ck n s) := by
  induction n generalizing s with
  | zero => exact went_respond _ s
  | succ n ih =>
    have hreads : Went i s (ramReadOp (buf + s.vfy.vidx) (memReadOp (start + s.vfy.vidx).toNat 1 s)) :=
      (went_memReadOp (.inl rfl) s).trans (went_ramReadOp _ _)
    unfold verifyLoop
    simp only
    split_ifs
    · exact (hreads.trans (went_of_eq rfl rfl)).trans (ih _)
    · exact (hreads.trans (went_of_eq rfl rfl)).trans (went_respond _ _)

theorem ended_verifyBody {i : Instr} (start length seed buf : Word) (s : State) :
    Ended i s (verifyBody start length seed buf s) := by
  unfold verifyBody
  split_ifs
  · exact (went_respond _ s).ended
  · exact (traces_ensureMapped start s).finish fun t _ =>
      ((went_checksumCore start length seed t).trans
        ((went_of_eq (t := verifyStart (checksumCore start length seed t)) rfl rfl).trans
          (went_verifyLoop _ _ _ _ _))).ended

/-! ### Every request -/

theorem ended_runRequest {i : Instr} {op : BitVec 4} {needsInit : Bool} {extent : Nat} {body : State → State}
    {s t : State} (hb : ∀ s, s.cfg.wf = true → extent ≤ 2 ^ 32 - 1 → Ended i s (body s))
    (h : runRequest op needsInit extent body s = .next t) : Ended i s t := by
  obtain ⟨hr, rfl⟩ := runRequest_eq_next.1 h
  obtain ⟨hw, -, hx⟩ := requestRefusal_eq_none.1 hr
  have haccept : Went i s (accept op s) := went_of_eq (accept_cfg op s) (accept_trace op s)
  exact haccept.thenEnded (hb _ (by rwa [accept_cfg]) hx)

/-- Whatever the environment answers, the events of a request are a `RequestTrace`. -/
theorem exec_requestTrace {i : Instr} {s t : State} (hi : isRequest i = true) (h : exec i s = .next t) :
    ∃ new, t.trace = s.trace ++ new ∧ RequestTrace s.cfg i new := by
  suffices he : Ended i s t from he.2
  cases i with
  | init => exact ended_runRequest (fun s _ _ => ended_initBody s) h
  | program start length buf => exact ended_runRequest (fun _ hw hx => ended_programBody buf hw hx) h
  | eraseRange start length => exact ended_runRequest (fun s _ _ => ended_eraseRangeBody start length s) h
  | eraseAll => exact ended_runRequest (fun s _ _ => ended_eraseAllBody s) h
  | checksum start length seed => exact ended_runRequest (fun s _ _ => ended_checksumBody start length seed s) h
  | verify start length seed buf => exact ended_runRequest (fun s _ _ => ended_verifyBody start length seed buf s) h
  | resetEnable | reset | writeEnable | readStatus | pageProgram | sectorErase | chipErase | quadRead | enter4Byte
  | send | poll | map | abort => cases hi

/-! ### The commands and reads among the events -/

/-- An event of WCMD, whatever its answer (R135). -/
def WcmdEvent (cat : Catalog) (k : Kind) (a : Nat) (payload : List Byte) : Event → Prop
  | .send cmd _ => cmd = encodeCmd cat .writeEnable 0 [] ∨ cmd = encodeCmd cat k a payload
  | .poll .. => True
  | .map .. | .abort _ | .memRd .. | .ramRd .. => False

section
variable {cat : Catalog} {k : Kind} {a : Nat} {payload : List Byte} {tmo : Word}

theorem wcmdEvent_of_mem {e : Event} (h : e ∈ wcmdTrace cat k a payload tmo) : WcmdEvent cat k a payload e := by
  simp only [wcmdTrace, List.mem_cons, List.not_mem_nil, or_false] at h
  obtain rfl | rfl | rfl | rfl := h
  · exact .inl rfl
  · trivial
  · exact .inr rfl
  · trivial

theorem WcmdEvent.withAnswer {e : Event} (h : WcmdEvent cat k a payload e) (r : Answer) :
    WcmdEvent cat k a payload (withAnswer e r) := by
  cases e <;> exact h

theorem CutShort.wcmdEvent {es : List Event} {e : Event} (h : CutShort (wcmdTrace cat k a payload tmo) es)
    (hm : e ∈ es) : WcmdEvent cat k a payload e := by
  obtain ⟨n, x, r, hn, -, rfl⟩ := h
  obtain hm | hm := List.mem_append.1 hm
  · exact wcmdEvent_of_mem (List.mem_of_mem_take hm)
  · obtain rfl := List.mem_singleton.1 hm
    exact (wcmdEvent_of_mem (List.mem_of_getElem? hn)).withAnswer r

/-- The one program or erase command of WCMD is the command it was given (R135). -/
theorem WcmdEvent.eq_of_changesFlash {cmd : BusCmd} {r : Answer} (h : WcmdEvent cat k a payload (.send cmd r))
    (hk : changesFlash cmd.kind = true) : cmd = encodeCmd cat k a payload := by
  obtain rfl | rfl := h
  · cases hk
  · rfl

end

/-- Every program or erase command of a request is one it may send. -/
theorem RequestTrace.send_changes {cfg : Cfg} {i : Instr} {es : List Event} {cmd : BusCmd} {r : Answer}
    (h : RequestTrace cfg i es) (hm : .send cmd r ∈ es) (hk : changesFlash cmd.kind = true) :
    ∃ k a payload, Changes cfg i k a payload ∧ cmd = encodeCmd cfg.cat k a payload := by
  induction h with
  | nil => cases hm
  | plain hp =>
    obtain rfl := List.mem_singleton.1 hm
    simp [plainEvent, hk] at hp
  | read => cases List.mem_singleton.1 hm
  | command _ hc => exact ⟨_, _, _, hc, (wcmdEvent_of_mem hm).eq_of_changesFlash hk⟩
  | failed hc cut => exact ⟨_, _, _, hc, (cut.wcmdEvent hm).eq_of_changesFlash hk⟩
  | append _ _ _ left right => exact (List.mem_append.1 hm).elim left right

theorem RequestTrace.memRd_aligned {cfg : Cfg} {i : Instr} {es : List Event} {a : Nat} {bytes : List Byte}
    (h : RequestTrace cfg i es) (hm : .memRd a bytes ∈ es) :
    bytes.length = 1 ∨ (bytes.length = 4 ∧ a % 4 = 0) := by
  induction h with
  | nil => cases hm
  | plain hp =>
    obtain rfl := List.mem_singleton.1 hm
    cases hp
  | read hr =>
    obtain ⟨rfl, rfl⟩ := Event.memRd.inj (List.mem_singleton.1 hm)
    exact hr
  | command => exact (wcmdEvent_of_mem hm).elim
  | failed _ cut => exact (cut.wcmdEvent hm).elim
  | append _ _ _ left right => exact (List.mem_append.1 hm).elim left right

/-! ## PAGE_PROGRAM, SECTOR_ERASE and CHIP_ERASE -/

/-- `n` bytes that end with their page at the latest lie in one page (R55). -/
theorem floorTo_add_of_le {p c n : Nat} (hn : 1 ≤ n) (h : n ≤ p - c % p) : floorTo p (c + n - 1) = floorTo p c := by
  have hm : (c + (n - 1)) % p = c % p + (n - 1) := by
    rw [Nat.add_mod, Nat.mod_eq_of_lt (a := n - 1) (by omega), Nat.mod_eq_of_lt (by omega)]
  rw [Nat.add_sub_assoc hn, floorTo, floorTo, hm]
  omega

/-- Settles O26: `Changes` allows a PAGE_PROGRAM to a PROGRAM alone, up to the end of its page. -/
theorem pageProgramsStayInOnePage : Obligations.PageProgramsStayInOnePage := by
  intro i s t hi h
  obtain ⟨new, ht, hr⟩ := exec_requestTrace hi h
  refine ⟨new, ht, fun cmd r hm hk => ?_⟩
  obtain ⟨k, c, payload, hc, rfl⟩ := hr.send_changes hm (by rw [hk]; rfl)
  cases hc with
  | program pos page first last =>
    exact ⟨c, rfl, pos, page.trans (Nat.sub_le _ _), (floorTo_add_of_le pos page).symm, _, _, _, rfl, first, last⟩
  | eraseRange | eraseAll => cases hk

/-- An encoded CHIP_ERASE has no address phase (R101, R111). -/
theorem chipErase_no_address (cat : Catalog) : admodeField (encodeWord0 cat .chipErase) = 0 ∧
    adsizeField (encodeWord0 cat .chipErase) = 0 := by
  have ha : admodeOf cat .chipErase = 0 := rfl
  have hs : adsizeOf cat .chipErase = 0 := rfl
  constructor <;> refine BitVec.eq_of_getLsbD_eq fun i hi => ?_
  all_goals
    obtain rfl | rfl : i = 0 ∨ i = 1 := by omega
    all_goals simp [admodeField, adsizeField, encodeWord0, ha, hs, BitVec.getLsbD_of_ge]

/-- Settles O29: `Changes` allows a SECTOR_ERASE to an ERASE_RANGE alone, and a CHIP_ERASE to ERASE_ALL alone. -/
theorem sectorErasesAreAligned : Obligations.SectorErasesAreAligned := by
  intro i s t hi h
  obtain ⟨new, ht, hr⟩ := exec_requestTrace hi h
  refine ⟨new, ht, fun cmd r hm => ⟨fun hk => ?_, fun hk => ?_⟩⟩
  · obtain ⟨k, e, payload, hc, rfl⟩ := hr.send_changes hm (by rw [hk]; rfl)
    cases hc with
    | eraseRange aligned first last => exact ⟨e, rfl, aligned, _, _, rfl, first, last⟩
    | program | eraseAll => cases hk
  · obtain ⟨k, e, payload, hc, rfl⟩ := hr.send_changes hm (by rw [hk]; rfl)
    cases hc with
    | eraseAll =>
      obtain ⟨hmode, hsize⟩ := chipErase_no_address s.cfg.cat
      exact ⟨rfl, hmode, hsize, rfl⟩
    | program | eraseRange => cases hk

/-! ## Window reads -/

/-- An instruction that is no request has at most one event, and that is no window read. -/
theorem exec_line_trace {i : Instr} {s t : State} (hi : isRequest i = false) (h : exec i s = .next t) :
    t.trace = s.trace ∨ ∃ e, t.trace = s.trace ++ [e] ∧ ∀ a bytes, e ≠ .memRd a bytes := by
  by_cases hb : formatOf i = .busCmd
  · obtain ⟨k, a, p, rfl⟩ := exec_busCmd_next hb h
    exact .inl rfl
  cases i with
  | send =>
    obtain ⟨-, -, rfl⟩ := runLine_eq_next.1 ((exec_send s).symm.trans h)
    exact .inr ⟨_, rfl, by simp⟩
  | poll spec =>
    obtain ⟨-, -, rfl⟩ := runLine_eq_next.1 ((exec_poll spec s).symm.trans h)
    exact .inr ⟨_, rfl, by simp⟩
  | map =>
    obtain ⟨-, -, rfl⟩ := runLine_eq_next.1 ((exec_map s).symm.trans h)
    exact .inr ⟨_, rfl, by simp⟩
  | abort =>
    obtain ⟨-, -, rfl⟩ := runLine_eq_next.1 ((exec_abort s).symm.trans h)
    exact .inr ⟨_, rfl, by simp⟩
  | resetEnable | reset | writeEnable | readStatus | pageProgram | sectorErase | chipErase | quadRead | enter4Byte =>
    exact absurd rfl hb
  | init | program | eraseRange | eraseAll | checksum | verify => cases hi

/-- Settles O36: the reads of a `RequestTrace` are so, and a line makes none. -/
theorem windowReadsAreAligned : Obligations.WindowReadsAreAligned := by
  intro i s t h
  cases hi : isRequest i with
  | true =>
    obtain ⟨new, ht, hr⟩ := exec_requestTrace hi h
    exact ⟨new, ht, fun a bytes hm => hr.memRd_aligned hm⟩
  | false =>
    obtain ht | ⟨e, ht, he⟩ := exec_line_trace hi h
    · exact ⟨[], by simp [ht], by simp⟩
    · exact ⟨[e], ht, fun a bytes hm => absurd (List.mem_singleton.1 hm).symm (he a bytes)⟩

/-! ## The calls around a program or erase (R66) -/

/-- R66 of a list of events: the two calls before each program or erase, and the wait after it. -/
def Guarded (cat : Catalog) (es : List Event) : Prop :=
  ∀ pre cmd r post, es = pre ++ .send cmd r :: post → changesFlash cmd.kind = true →
    (∃ before, pre = before ++
      [.send (encodeCmd cat .writeEnable 0 []) .ok, .poll (encodeCmd cat .readStatus 0 []) (welWait cat) .ok]) ∧
    (r ≠ .ok → post = []) ∧
    (r = .ok → ∃ tmo a rest,
      post = .poll (encodeCmd cat .readStatus 0 []) (wipWait cat tmo) a :: rest ∧ (rest ≠ [] → a = .ok))

section
variable {cat : Catalog}

theorem guarded_of_no_change {es : List Event} (h : ∀ cmd r, .send cmd r ∈ es → changesFlash cmd.kind = false) :
    Guarded cat es := by
  intro pre cmd r post e hk
  have := h cmd r (by simp [e])
  simp [hk] at this

theorem changesFlash_of_plain {cmd : BusCmd} {r : Answer} (h : plainEvent (.send cmd r) = true) :
    changesFlash cmd.kind = false := by simpa [plainEvent] using h

theorem guarded_of_plain {es : List Event} (h : ∀ e ∈ es, plainEvent e = true) : Guarded cat es :=
  guarded_of_no_change fun _ _ hm => changesFlash_of_plain (h _ hm)

/-- WCMD from its command on: the wait follows if the SEND was answered OK, and nothing follows the wait. -/
theorem guarded_command {cmd : BusCmd} {r : Answer} {post : List Event} (hfail : r ≠ .ok → post = [])
    (hok : r = .ok → ∃ tmo a, post = [.poll (encodeCmd cat .readStatus 0 []) (wipWait cat tmo) a]) :
    Guarded cat (.send (encodeCmd cat .writeEnable 0 []) .ok ::
      .poll (encodeCmd cat .readStatus 0 []) (welWait cat) .ok :: .send cmd r :: post) := by
  intro pre c x after e hk
  obtain _ | ⟨_, _ | ⟨_, _ | ⟨_, pre⟩⟩⟩ := pre
  · obtain ⟨⟨rfl, -⟩, -⟩ := by simpa using e
    cases hk
  · simp at e
  · obtain ⟨rfl, rfl, ⟨rfl, rfl⟩, rfl⟩ := by simpa using e
    refine ⟨⟨[], rfl⟩, hfail, fun hr => ?_⟩
    obtain ⟨tmo, a, rfl⟩ := hok hr
    exact ⟨tmo, a, [], rfl, fun hn => absurd rfl hn⟩
  · obtain ⟨-, -, -, rfl⟩ := by simpa using e
    by_cases hr : r = .ok
    · obtain ⟨tmo, a, hp⟩ := hok hr
      have hm : Event.send c x ∈ pre ++ .send c x :: after := by simp
      rw [hp] at hm
      simp at hm
    · simpa using hfail hr

theorem guarded_wcmdTrace (k : Kind) (a : Nat) (payload : List Byte) (tmo : Word) :
    Guarded cat (wcmdTrace cat k a payload tmo) :=
  guarded_command (fun h => absurd rfl h) fun _ => ⟨_, _, rfl⟩

theorem CutShort.guarded {k : Kind} {a : Nat} {payload : List Byte} {tmo : Word} {es : List Event}
    (h : CutShort (wcmdTrace cat k a payload tmo) es) : Guarded cat es := by
  obtain ⟨n, e, r, hn, hr, rfl⟩ := h
  match n with
  | 0 =>
    obtain rfl := Option.some.inj hn
    exact guarded_of_plain (by simp [withAnswer, plainEvent, encodeCmd, changesFlash])
  | 1 =>
    obtain rfl := Option.some.inj hn
    exact guarded_of_plain (by simp [wcmdTrace, withAnswer, plainEvent, encodeCmd, changesFlash])
  | 2 =>
    obtain rfl := Option.some.inj hn
    exact guarded_command (fun _ => rfl) fun h => absurd h hr
  | 3 =>
    obtain rfl := Option.some.inj hn
    exact guarded_command (fun h => absurd rfl h) fun _ => ⟨_, _, rfl⟩
  | n + 4 => cases hn

theorem AllOk.send {es : List Event} {cmd : BusCmd} {r : Answer} (h : AllOk es)
    (hm : .send cmd r ∈ es) : r = .ok := by
  simpa [answeredOk, eventAnswer] using h _ hm

theorem AllOk.poll {es : List Event} {cmd : BusCmd} {spec : PollSpec} {r : Answer} (h : AllOk es)
    (hm : .poll cmd spec r ∈ es) : r = .ok := by
  simpa [answeredOk, eventAnswer] using h _ hm

theorem Guarded.append {es fs : List Event} (hok : AllOk es) (h : Guarded cat es) (k : Guarded cat fs) :
    Guarded cat (es ++ fs) := by
  intro pre cmd r post e hk
  obtain ⟨mid, rfl, hf⟩ | ⟨mid, he, hf⟩ := List.append_eq_append_iff.1 e
  · obtain ⟨⟨before, rfl⟩, hpost⟩ := k mid cmd r post hf hk
    exact ⟨⟨es ++ before, by simp⟩, hpost⟩
  · cases mid with
    | nil =>
      obtain ⟨⟨before, hb⟩, hpost⟩ := k [] cmd r post hf.symm hk
      simp at hb
    | cons x mid =>
      obtain ⟨rfl, rfl⟩ := List.cons.inj hf
      obtain rfl := hok.send (r := r) (cmd := cmd) (by simp [he])
      obtain ⟨hpre, -, hwait⟩ := h pre cmd .ok mid he hk
      obtain ⟨tmo, a, rest, rfl, -⟩ := hwait rfl
      obtain rfl := hok.poll (cmd := encodeCmd cat .readStatus 0 []) (spec := wipWait cat tmo) (r := a) (by simp [he])
      exact ⟨hpre, fun hr => absurd rfl hr, fun _ => ⟨tmo, .ok, rest ++ fs, rfl, fun _ => rfl⟩⟩

end

theorem RequestTrace.guarded {cfg : Cfg} {i : Instr} {es : List Event} (h : RequestTrace cfg i es) :
    Guarded cfg.cat es := by
  induction h with
  | nil => exact guarded_of_plain (by simp)
  | plain hp => exact guarded_of_plain (by simpa using hp)
  | read => exact guarded_of_no_change (by simp)
  | command => exact guarded_wcmdTrace _ _ _ _
  | failed _ cut => exact cut.guarded
  | append ok _ _ left right => exact left.append ok right

/-- Settles O51: every `RequestTrace` is guarded. -/
theorem writeEnableAndCompletionBarrier : Obligations.WriteEnableAndCompletionBarrier := by
  intro i s t hi h
  obtain ⟨new, ht, hr⟩ := exec_requestTrace hi h
  exact ⟨new, ht, hr.guarded⟩

/-! ## What the window shows while no program or erase is sent -/

/-- From `s` to `t`, if no program or erase was sent and the device was quiet, it still is, and the window shows the
same bytes (R53, R59, R200). -/
def KeepsWindow (s t : State) : Prop :=
  t.cfg = s.cfg ∧ ∃ new, t.trace = s.trace ++ new ∧ (sendsNoChange new → s.dev.quiet = true →
    t.dev.quiet = true ∧ ∀ a, windowByte s.cfg t.dev a = windowByte s.cfg s.dev a)

theorem KeepsWindow.refl (s : State) : KeepsWindow s s := ⟨rfl, [], by simp, fun _ hq => ⟨hq, fun _ => rfl⟩⟩

theorem sendsNoChange_append (es fs : List Event) :
    sendsNoChange (es ++ fs) ↔ sendsNoChange es ∧ sendsNoChange fs := by
  simp [sendsNoChange, or_imp, forall_and]

theorem KeepsWindow.trans {s t u : State} (h : KeepsWindow s t) (k : KeepsWindow t u) : KeepsWindow s u := by
  obtain ⟨hc, es, ht, hs⟩ := h
  obtain ⟨kc, fs, ku, kt⟩ := k
  refine ⟨kc.trans hc, es ++ fs, by rw [ku, ht, List.append_assoc], fun hn hq => ?_⟩
  obtain ⟨hes, hfs⟩ := (sendsNoChange_append es fs).1 hn
  obtain ⟨hq', hw⟩ := hs hes hq
  obtain ⟨hq'', kw⟩ := kt hfs hq'
  exact ⟨hq'', fun a => (hc ▸ kw a).trans (hw a)⟩

theorem commandRuns_of_no_change {cmd : BusCmd} (h : changesFlash cmd.kind = false) (cfg : Cfg) :
    commandRuns cfg cmd = none := by
  unfold commandRuns
  cases hk : cmd.kind with
  | pageProgram | sectorErase | chipErase => rw [hk] at h; cases h
  | resetEnable | reset | writeEnable | readStatus | quadRead | enter4Byte => rfl

theorem deviceSend_of_none {c : Cfg} {x : BusCmd} (h : commandRuns c x = none) (an : Answer) (d : Device) :
    deviceSend c an x d = { disturb d with wel := .unknown } := by
  simp only [deviceSend, h]

theorem quiet_devicePoll (c : Cfg) (an : Answer) (p : PollSpec) (q : Poller) {d : Device} (h : d.quiet = true) :
    (devicePoll c an p q d).quiet = true := by
  obtain hi | hi | hi := devicePoll_inflight_cases c an p q d <;> rw [Device.quiet, hi]
  · exact h
  · simp
  · simp [forget]

theorem keepsWindow_of_prim {b : Bool} {s t : State} (h : Prim b s t) : KeepsWindow s t := by
  cases h with
  | send =>
    refine ⟨rfl, _, rfl, fun hn _ => ?_⟩
    have hr := commandRuns_of_no_change (hn _ _ (List.mem_singleton.2 rfl)) s.cfg
    rw [sendOp_dev, deviceSend_of_none hr]
    exact ⟨quiet_disturb _, windowByte_disturb _ _⟩
  | poll spec =>
    refine ⟨rfl, _, rfl, fun _ hq => ⟨quiet_devicePoll _ _ _ _ hq, fun a => ?_⟩⟩
    exact windowByte_congr (flashByte_devicePoll_of_quiet _ _ _ _ hq a) (by simp)
  | map => exact ⟨rfl, _, rfl, fun _ _ => ⟨quiet_disturb _, windowByte_disturb _ _⟩⟩
  | abort | memRead | ramRead => exact ⟨rfl, _, rfl, fun _ hq => ⟨hq, fun _ => rfl⟩⟩
  | regs _ _ cfg _ _ dev _ trace => exact ⟨cfg, [], by simp [trace], fun _ hq => by simp [dev, hq]⟩

theorem exec_keepsWindow {i : Instr} {s t : State} (h : exec i s = .next t) : KeepsWindow s t := by
  have hsteps := exec_steps h
  clear h
  induction hsteps with
  | refl => exact .refl s
  | tail _ hp ih => exact ih.trans (keepsWindow_of_prim hp)

theorem runLines_cons_eq_next {i : Instr} {is : List Instr} {s t : State} (h : runLines (i :: is) s = .next t) :
    ∃ u, exec i s = .next u ∧ runLines is u = .next t := by
  unfold runLines at h
  split at h
  · exact ⟨_, ‹_›, h⟩
  · cases h
  · cases h

theorem runLines_keepsWindow {is : List Instr} {s t : State} (h : runLines is s = .next t) : KeepsWindow s t := by
  induction is generalizing s with
  | nil => cases h; exact .refl _
  | cons i is ih =>
    obtain ⟨u, hu, h⟩ := runLines_cons_eq_next h
    exact (exec_keepsWindow hu).trans (ih h)

/-- Instructions that send no program or erase leave what a quiet device's window shows. -/
theorem windowByte_of_runLines {is : List Instr} {s t : State} {new : List Event} (h : runLines is s = .next t)
    (ht : t.trace = s.trace ++ new) (hn : sendsNoChange new) (hq : s.dev.quiet = true) (a : Nat) :
    windowByte t.cfg t.dev a = windowByte s.cfg s.dev a := by
  obtain ⟨hc, es, he, hw⟩ := runLines_keepsWindow h
  obtain rfl : es = new := List.append_cancel_left (he.symm.trans ht)
  rw [hc]
  exact (hw hn hq).2 a

theorem windowBytes_getElem? (cfg : Cfg) (d : Device) (a : Nat) {n i : Nat} (h : i < n) :
    (windowBytes cfg d a n)[i]? = some (windowByte cfg d (a + i)) := by
  simp [windowBytes, h]

/-- Both reads show the byte at `a` (R50, R53). -/
theorem byte_eq_lane {c d : Cfg} {x y : Device} {a : Nat} (h : windowByte c x a = windowByte d y a) :
    (windowBytes c x a 1)[0]? = (windowBytes d y (floorTo 4 a) 4)[a - floorTo 4 a]? := by
  have hle : a - floorTo 4 a < 4 ∧ floorTo 4 a ≤ a := by
    unfold floorTo
    omega
  rw [windowBytes_getElem? c x a Nat.one_pos, windowBytes_getElem? d y _ hle.1, Nat.add_zero, h,
    Nat.add_sub_cancel' hle.2]

/-- Settles O35: the window shows the same bytes in both states. -/
theorem byteReadIsItsLane : Obligations.ByteReadIsItsLane := by
  intro s t between a hinv hm h ⟨new, ht, hn⟩
  obtain ⟨-, -, -, -, -, -, hq⟩ := hinv
  have hw := windowByte_of_runLines h ht hn (hq hm) a
  exact ⟨byte_eq_lane hw.symm, byte_eq_lane hw⟩

/-! ## Calls that the environment answers OK -/

theorem obliges_nil (ds : List Draw) : obliges [] ds = true := by
  cases ds <;> rfl

theorem obliges_cons {c : Call} {cs : List Call} {ds : List Draw} :
    obliges (c :: cs) ds = true ↔ ∃ d ds', ds = d :: ds' ∧ drawObliges c d = true ∧ obliges cs ds' = true := by
  cases ds <;> simp [obliges]

theorem callAnswer_of_obliges {cs : List Call} {d : Device} (h : obliges (.plain :: cs) d.script = true) :
    callAnswer (nextDraw d) = .ok ∧ obliges cs d.script.tail = true := by
  obtain ⟨x, xs, hd, hx, hcs⟩ := obliges_cons.1 h
  rw [nextDraw_cons d x xs hd, callAnswer_eq_ok, hd]
  exact ⟨by simpa [drawObliges] using hx, hcs⟩

theorem runPoll_of_obliges {spec : PollSpec} {cs : List Call} {d : Device}
    (h : obliges (.poll spec :: cs) d.script = true) (p : Poller) :
    (runPoll (nextDraw d) d.tick spec p).1 = .ok ∧ obliges cs d.script.tail = true := by
  obtain ⟨x, xs, hd, hx, hcs⟩ := obliges_cons.1 h
  rw [nextDraw_cons d x xs hd, hd]
  exact ⟨runPoll_ok_of_obliges hx _ _, hcs⟩

theorem sendOp_of_obliges {cs : List Call} {s : State} (h : obliges (.plain :: cs) s.dev.script = true) :
    (sendOp s).seq.ret = .ok ∧ obliges cs (sendOp s).dev.script = true := by
  simpa using callAnswer_of_obliges h

theorem pollOp_of_obliges {spec : PollSpec} {cs : List Call} {s : State}
    (h : obliges (.poll spec :: cs) s.dev.script = true) :
    (pollOp spec s).seq.ret = .ok ∧ obliges cs (pollOp spec s).dev.script = true := by
  simpa using runPoll_of_obliges h s.pol

/-- The four calls of WCMD answered OK (R135). -/
structure WcmdOk (k : Kind) (a : Nat) (payload : List Byte) (t : Word) (s : State) : Prop where
  sent : (wcmdSent s).seq.ret = .ok
  enabled : (wcmdEnabled s).seq.ret = .ok
  issued : (wcmdIssued k a payload s).seq.ret = .ok
  done : (wcmdDone k a payload t s).seq.ret = .ok

theorem WcmdOk.eq_going {k : Kind} {a : Nat} {payload : List Byte} {t : Word} {s : State}
    (h : WcmdOk k a payload t s) (ea : Word) :
    wcmd k a payload t ea s = .going (setEState .idle (wcmdDone k a payload t s)) := by
  obtain ⟨h1, h2, h3, h4⟩ := h
  obtain ⟨k1, -⟩ | ⟨-, k2, -⟩ | ⟨-, -, k3, -⟩ | ⟨-, -, -, k4, -⟩ | ⟨-, -, -, -, e⟩ :=
    wcmd_cases k a payload t ea s
  · exact absurd h1 k1
  · exact absurd h2 k2
  · exact absurd h3 k3
  · exact absurd h4 k4
  · exact e

theorem wcmdOk_of_obliges {cs : List Call} {t : Word} {s : State}
    (h : obliges (wcmdCalls s.cfg.cat t ++ cs) s.dev.script = true) (k : Kind) (a : Nat) (payload : List Byte) :
    WcmdOk k a payload t s ∧ obliges cs (wcmdDone k a payload t s).dev.script = true := by
  obtain ⟨h1, g1⟩ := sendOp_of_obliges (s := encodeOp .writeEnable 0 [] s) h
  obtain ⟨h2, g2⟩ := pollOp_of_obliges (s := setEState .welPending (wcmdSent s)) (by rwa [setEState_dev])
  obtain ⟨h3, g3⟩ := sendOp_of_obliges (s := encodeOp k a payload (setEState .cmdIssued (wcmdEnabled s)))
    (by rwa [encodeOp_dev, setEState_dev])
  obtain ⟨h4, g4⟩ := pollOp_of_obliges (s := setEState .busyPolling (wcmdIssued k a payload s))
    (by rwa [setEState_dev])
  exact ⟨⟨h1, h2, h3, h4⟩, g4⟩

/-! ## What a request leaves in the flash -/

/-- `t` is `s` with the flash bytes `f` in an idle device; the configuration and the host are as they were. -/
structure LeavesBytes (f : Nat → Byte) (s t : State) : Prop where
  cfg : t.cfg = s.cfg
  host : t.host = s.host
  idle : t.dev.busy = .idle
  byte : ∀ x, flashByte t.dev x = f x

theorem LeavesBytes.refl {s : State} (h : s.dev.busy = .idle) : LeavesBytes (flashByte s.dev) s s :=
  ⟨rfl, rfl, h, fun _ => rfl⟩

theorem LeavesBytes.trans {f g : Nat → Byte} {s t u : State} (h : LeavesBytes f s t) (k : LeavesBytes g t u) :
    LeavesBytes g s u :=
  ⟨k.cfg.trans h.cfg, k.host.trans h.host, k.idle, k.byte⟩

theorem LeavesBytes.congr {f g : Nat → Byte} {s t : State} (h : LeavesBytes f s t) (e : ∀ x, f x = g x) :
    LeavesBytes g s t :=
  ⟨h.cfg, h.host, h.idle, fun x => (h.byte x).trans (e x)⟩

/-- What writes neither the device, the configuration nor the host. -/
theorem LeavesBytes.of_eq {f : Nat → Byte} {s t u : State} (h : LeavesBytes f s t) (hc : u.cfg = t.cfg)
    (hh : u.host = t.host) (hd : u.dev = t.dev) : LeavesBytes f s u :=
  ⟨hc.trans h.cfg, hh.trans h.host, hd ▸ h.idle, hd ▸ h.byte⟩

theorem LeavesBytes.respond {f : Nat → Byte} {s t : State} (h : LeavesBytes f s t) (r : Response) :
    LeavesBytes f s (respond r t) :=
  h.of_eq (respond_cfg r t) (respond_host r t) (respond_dev r t)

theorem leavesBytes_accept {s : State} (h : s.dev.busy = .idle) (op : BitVec 4) :
    LeavesBytes (flashByte s.dev) s (accept op s) :=
  (LeavesBytes.refl h).of_eq (accept_cfg op s) (accept_host op s) (accept_dev op s)

theorem leavesBytes_abortOp {s : State} (h : s.dev.busy = .idle) : LeavesBytes (flashByte s.dev) s (abortOp s) :=
  ⟨rfl, rfl, h, fun _ => rfl⟩

theorem leavesBytes_mapOp {s : State} (h : s.dev.busy = .idle) : LeavesBytes (flashByte s.dev) s (mapOp s) :=
  ⟨rfl, rfl, if_pos h, flashByte_disturb s.dev⟩

theorem ensureIndirect_of_obliges {cs : List Call} {s : State} (hidle : s.dev.busy = .idle)
    (h : obliges (toggleCalls .indirect s.mode ++ cs) s.dev.script = true) (ea : Word) :
    ∃ u, ensureIndirect ea s = .going u ∧ LeavesBytes (flashByte s.dev) s u ∧ obliges cs u.dev.script = true := by
  obtain ⟨hm, e⟩ | ⟨hm, -, e⟩ | ⟨hm, ha, -⟩ := ensureIndirect_cases ea s <;> rw [hm] at h
  · exact ⟨s, e, .refl hidle, h⟩
  · exact ⟨_, e, leavesBytes_abortOp hidle, (callAnswer_of_obliges h).2⟩
  · cases ha.symm.trans (callAnswer_of_obliges h).1

theorem ensureMapped_of_obliges {cs : List Call} {s : State} (hidle : s.dev.busy = .idle)
    (h : obliges (toggleCalls .mapped s.mode ++ cs) s.dev.script = true) (ea : Word) :
    ∃ u, ensureMapped ea s = .going u ∧ LeavesBytes (flashByte s.dev) s u ∧ obliges cs u.dev.script = true := by
  obtain ⟨hm, e⟩ | ⟨hm, -, e⟩ | ⟨hm, ha, -⟩ := ensureMapped_cases ea s <;> rw [hm] at h
  · exact ⟨s, e, .refl hidle, h⟩
  · exact ⟨_, e, leavesBytes_mapOp hidle, (callAnswer_of_obliges h).2⟩
  · cases ha.symm.trans (callAnswer_of_obliges h).1

/-! ### The elementary command on an idle device -/

theorem globals_of_wf {cfg : Cfg} (h : cfg.wf = true) :
    (cfg.cat.addressBytes = 3 ∨ cfg.cat.addressBytes = 4) ∧ cfg.cat.welBit ≠ 0 := by
  simp only [Cfg.wf, globalsOk, Bool.and_eq_true, Bool.or_eq_true, beq_iff_eq, bne_iff_ne] at h
  obtain ⟨⟨-, ⟨hbytes, hwel⟩, -⟩, -⟩ := h
  exact ⟨hbytes, hwel⟩

/-- A write-enable-latch wait answered OK tells only the latch: it is no wait for WIP, as WEL_BIT is not 0 (R10). -/
theorem devicePoll_welWait {c : Cfg} (hw : c.wf = true) (q : Poller) (d : Device) :
    devicePoll c .ok (welWait c.cat) q d = { d with wel := latchSeen c.cat q d.wel } := by
  have hwip : isWipWait c (welWait c.cat) = false :=
    Bool.and_eq_false_iff.2 (.inr (beq_eq_false_iff_ne.2 (globals_of_wf hw).2))
  simp [devicePoll, hwip]

theorem isWipWait_wipWait (c : Cfg) (t : Word) : isWipWait c (wipWait c.cat t) = true := by simp [isWipWait, wipWait]

/-- After the WEL wait an idle device is idle, its latch is set, and no flash byte has changed (R66, R264). -/
theorem wcmdEnabled_leaves {s : State} (hw : s.cfg.wf = true) (hidle : s.dev.busy = .idle)
    (hok : (wcmdEnabled s).seq.ret = .ok) :
    LeavesBytes (flashByte s.dev) s (wcmdEnabled s) ∧ (wcmdEnabled s).dev.wel = .set := by
  have hsent : (setEState .welPending (wcmdSent s)).dev = consumeDraw { disturb s.dev with wel := .unknown } := by
    rw [setEState_dev, wcmdSent, sendOp_dev]
    rw [deviceSend_of_none (commandRuns_of_no_change (by rfl) _)]
    rfl
  have hdev : (wcmdEnabled s).dev = consumeDraw (devicePoll s.cfg (wcmdEnabled s).seq.ret (welWait s.cfg.cat)
      (wcmdEnabled s).pol (setEState .welPending (wcmdSent s)).dev) := by
    simp only [wcmdEnabled, pollOp_dev, pollOp_seq, pollOp_pol, setEState_cfg]
    rfl
  rw [hok, devicePoll_welWait hw, hsent] at hdev
  refine ⟨⟨by simp [wcmdEnabled, wcmdSent], by simp [wcmdEnabled, wcmdSent], ?_, fun x => ?_⟩, ?_⟩
  · simp [hdev, hidle]
  · rw [hdev]
    exact flashByte_disturb s.dev x
  · rw [hdev]
    exact latchSeen_of_welWait _ hok

theorem wcmdIssued_cfg (k : Kind) (a : Nat) (payload : List Byte) (s : State) :
    (wcmdIssued k a payload s).cfg = s.cfg := by
  simp [wcmdIssued, wcmdEnabled, wcmdSent]

/-- WCMD with a program or erase in geometry, on an idle device: its result stands in its runs, and every other byte is
as it was (R66, R67, R151, R169). -/
theorem WcmdOk.leaves {k : Kind} {a : Nat} {payload : List Byte} {t : Word} {s : State} {runs : List (Nat × Nat)}
    (h : WcmdOk k a payload t s) (hw : s.cfg.wf = true) (hidle : s.dev.busy = .idle)
    (hruns : commandRuns s.cfg (encodeCmd s.cfg.cat k a payload) = some runs) (hgeom : inGeometry s.cfg runs = true) :
    ∃ epoch m, (∀ x, storedByte m x = flashByte s.dev x) ∧
      LeavesBytes (fun x => if inRuns runs x then resultByte s.cfg (encodeCmd s.cfg.cat k a payload) epoch m x
        else flashByte s.dev x) s (wcmdDone k a payload t s) := by
  obtain ⟨henabled, hset⟩ := wcmdEnabled_leaves hw hidle h.enabled
  have hissued : (wcmdIssued k a payload s).dev = consumeDraw (deviceSend s.cfg (wcmdIssued k a payload s).seq.ret
      (encodeCmd s.cfg.cat k a payload) (wcmdEnabled s).dev) := by
    simp only [wcmdIssued, sendOp_dev, sendOp_seq, encodeOp_dev, encodeOp_seq, encodeOp_cfg, setEState_dev,
      setEState_cfg, henabled.cfg]
  have hdone : (wcmdDone k a payload t s).dev = consumeDraw (devicePoll s.cfg (wcmdDone k a payload t s).seq.ret
      (wipWait s.cfg.cat t) (wcmdDone k a payload t s).pol (wcmdIssued k a payload s).dev) := by
    simp only [wcmdDone, pollOp_dev, pollOp_seq, pollOp_pol, setEState_dev, setEState_cfg, wcmdIssued_cfg]
  rw [h.done] at hdone
  rw [h.issued] at hissued
  have haccepted : accepted s.cfg .ok runs (wcmdEnabled s).dev = true := by
    simp [accepted, specified, henabled.idle, hset, hgeom]
  refine ⟨(wcmdEnabled s).dev.epoch + 1, flashNow (wcmdEnabled s).dev, fun x => ?_, wcmdDone_cfg _ _ _ _ _, ?_, ?_,
    fun x => ?_⟩
  · rw [storedByte_flashNow, henabled.byte]
  · simp [wcmdDone, wcmdIssued, henabled.host]
  · rw [hdone, consumeDraw_busy]
    simp [devicePoll, isWipWait_wipWait]
  · rw [hdone, flashByte_consumeDraw, hissued,
      flashByte_accepted hruns haccepted (isWipWait_wipWait _ _) _ (g := consumeDraw) (fun _ => rfl) (fun _ => rfl),
      spanOf, if_pos hgeom, henabled.byte]

/-! ### One PAGE_PROGRAM -/

theorem inRuns_pageRuns {p c n : Nat} (h : n ≤ p - c % p) (x : Nat) :
    inRuns (pageRuns p c n) x = true ↔ c ≤ x ∧ x < c + n := by
  have hwrap : n - (p - c % p) = 0 := Nat.sub_eq_zero_of_le h
  simp only [inRuns, pageRuns, hwrap, Nat.min_eq_left h, Nat.zero_min, List.any_cons, List.any_nil, Bool.or_false,
    Bool.or_eq_true, Bool.and_eq_true, decide_eq_true_eq]
  omega

theorem inGeometry_pageRuns {cfg : Cfg} {p c n : Nat} (h : n ≤ p - c % p) (hg : c + n ≤ cfg.geom.totalSize.toNat) :
    inGeometry cfg (pageRuns p c n) = true := by
  have hwrap : n - (p - c % p) = 0 := Nat.sub_eq_zero_of_le h
  have hfloor : floorTo p c ≤ c := Nat.sub_le _ _
  simp only [inGeometry, pageRuns, hwrap, Nat.min_eq_left h, Nat.zero_min, List.all_cons, List.all_nil,
    Bool.and_eq_true, decide_eq_true_eq, Nat.add_zero, and_true]
  exact ⟨hg, hfloor.trans ((Nat.le_add_right c n).trans hg)⟩

/-- A byte that no more payload falls on. -/
theorem programByte_of_length_le (e free : Byte) (p : Nat) {k : Nat} {ds : List Byte} (h : ds.length ≤ k)
    (old : Byte) : programByte e free p k old ds = old := by
  induction ds generalizing k with
  | nil => rw [programByte.eq_def]
  | cons d ds ih =>
    cases k with
    | zero => simp at h
    | succ k => exact ih (Nat.le_of_succ_le_succ h)

/-- An erased byte takes the one byte of the payload that falls on it, where the payload fits the page (R151). -/
theorem programByte_erased (e free : Byte) {p k : Nat} {ds : List Byte} (hk : k < ds.length) (hp : ds.length ≤ p) :
    programByte e free p k e ds = ds.getD k 0 := by
  induction ds generalizing k with
  | nil => simp at hk
  | cons d ds ih =>
    cases k with
    | zero =>
      rw [programByte, if_pos rfl, programByte_of_length_le e free p (Nat.le_sub_one_of_lt hp)]
      rfl
    | succ k => exact ih (Nat.lt_of_succ_lt_succ hk) (Nat.le_of_succ_le hp)

theorem encodeCmd_w1_of_lt {cfg : Cfg} (hw : cfg.wf = true) {k : Kind} (hk : hasAddr k = true) {a : Nat}
    (ha : a < 2 ^ (8 * cfg.cat.addressBytes)) (payload : List Byte) : (encodeCmd cfg.cat k a payload).w1.toNat = a := by
  have hle : 2 ^ (8 * cfg.cat.addressBytes) ≤ 2 ^ 32 := by
    obtain hb | hb := (globals_of_wf hw).1 <;> simp [hb]
  simp only [encodeCmd, hk, if_true, busAddress, BitVec.toNat_ofNat, Nat.mod_eq_of_lt ha,
    Nat.mod_eq_of_lt (ha.trans_le hle)]

/-- A PAGE_PROGRAM that fits its page leaves its payload in erased bytes (R151). -/
theorem resultByte_pageProgram {cfg : Cfg} {c x epoch : Nat} {payload : List Byte} {m : List Host.Cell}
    (hw1 : (encodeCmd cfg.cat .pageProgram c payload).w1.toNat = c)
    (hpage : payload.length ≤ cfg.geom.pageSize.toNat - c % cfg.geom.pageSize.toNat)
    (hx : c ≤ x ∧ x < c + payload.length) (herased : storedByte m x = cfg.geom.eraseValue) :
    resultByte cfg (encodeCmd cfg.cat .pageProgram c payload) epoch m x = payload.getD (x - c) 0 := by
  have hindex : (x - floorTo cfg.geom.pageSize.toNat c + cfg.geom.pageSize.toNat - c % cfg.geom.pageSize.toNat)
      % cfg.geom.pageSize.toNat = x - c := by
    have hle := Nat.mod_le c cfg.geom.pageSize.toNat
    have e : x - floorTo cfg.geom.pageSize.toNat c + cfg.geom.pageSize.toNat - c % cfg.geom.pageSize.toNat
        = x - c + cfg.geom.pageSize.toNat := by unfold floorTo; omega
    rw [e, Nat.add_mod_right, Nat.mod_eq_of_lt (by omega)]
  have hlt : x - c < payload.length := by omega
  unfold resultByte
  simp only [hw1, herased, hindex]
  exact programByte_erased _ _ hlt (hpage.trans (Nat.sub_le _ _))

/-- WCMD with a PAGE_PROGRAM that fits its page, on erased bytes of an idle device (R151). -/
theorem wcmd_pageProgram {cs : List Call} {s : State} {c : Nat} {payload : List Byte} {t : Word}
    (h : obliges (wcmdCalls s.cfg.cat t ++ cs) s.dev.script = true) (hw : s.cfg.wf = true)
    (hidle : s.dev.busy = .idle) (hpos : 1 ≤ payload.length)
    (hpage : payload.length ≤ s.cfg.geom.pageSize.toNat - c % s.cfg.geom.pageSize.toNat)
    (hgeom : c + payload.length ≤ s.cfg.geom.totalSize.toNat)
    (hwidth : c + payload.length ≤ 2 ^ (8 * s.cfg.cat.addressBytes))
    (herased : ∀ x, c ≤ x → x < c + payload.length → flashByte s.dev x = s.cfg.geom.eraseValue) (ea : Word) :
    ∃ u, wcmd .pageProgram c payload t ea s = .going u ∧ obliges cs u.dev.script = true ∧
      LeavesBytes (fun x => if c ≤ x ∧ x < c + payload.length then payload.getD (x - c) 0 else flashByte s.dev x)
        s u := by
  obtain ⟨hok, hcs⟩ := wcmdOk_of_obliges h .pageProgram c payload
  have hw1 : (encodeCmd s.cfg.cat .pageProgram c payload).w1.toNat = c := encodeCmd_w1_of_lt hw rfl (by omega) _
  have hruns : commandRuns s.cfg (encodeCmd s.cfg.cat .pageProgram c payload) =
      some (pageRuns s.cfg.geom.pageSize.toNat (encodeCmd s.cfg.cat .pageProgram c payload).w1.toNat
        payload.length) := rfl
  rw [hw1] at hruns
  obtain ⟨epoch, m, hm, hleaves⟩ := hok.leaves hw hidle hruns (inGeometry_pageRuns hpage hgeom)
  refine ⟨_, hok.eq_going ea, by rwa [setEState_dev], ?_⟩
  refine (hleaves.of_eq (setEState_cfg _ _) (setEState_host _ _) (setEState_dev _ _)).congr fun x => ?_
  refine ite_congr (propext (inRuns_pageRuns hpage x)) (fun hx => ?_) fun _ => rfl
  exact resultByte_pageProgram hw1 hpage hx ((hm x).trans (herased x hx.1 hx.2))

/-! ### The chunks of a PROGRAM -/

theorem laterChunks_fuel {p : Nat} (hp : 1 ≤ p) {n m r : Nat} (c : Nat) (hn : r ≤ n) (hm : r ≤ m) :
    laterChunks p n c r = laterChunks p m c r := by
  induction n generalizing m c r with
  | zero =>
    obtain rfl : r = 0 := by omega
    cases m <;> rfl
  | succ n ih =>
    cases m with
    | zero =>
      obtain rfl : r = 0 := by omega
      rfl
    | succ m =>
      unfold laterChunks
      split_ifs
      · rfl
      · have hrest : r - min p r ≤ n ∧ r - min p r ≤ m := by omega
        rw [ih _ hrest.1 hrest.2]

/-- What is left after a chunk is a range of its own, at a page boundary (R152). -/
theorem laterChunks_eq_chunkList {p n c r : Nat} (hp : 1 ≤ p) (hn : r ≤ n) (hc : r ≠ 0 → c % p = 0) :
    laterChunks p n c r = chunkList p c r := by
  rw [laterChunks_fuel hp c hn (Nat.le_succ r)]
  unfold laterChunks chunkList
  by_cases hr : r = 0
  · simp [hr]
  · simp only [hr, if_false, hc hr, Nat.sub_zero]

theorem chunkList_of_ne_zero {p c r : Nat} (hp : 1 ≤ p) (hr : r ≠ 0) :
    chunkList p c r = (c, min (p - c % p) r) ::
      chunkList p (c + min (p - c % p) r) (r - min (p - c % p) r) := by
  rw [← laterChunks_eq_chunkList hp (n := r) (Nat.sub_le _ _)]
  · rw [chunkList, if_neg hr]
  · intro hrest
    have hm : min (p - c % p) r = p - c % p := by omega
    rw [hm, add_pageRest_mod hp]

/-- The state a chunk's payload reads leave: only the trace grows (R150). -/
theorem readPayload_state (n : Nat) (a : Word) (s : State) :
    (readPayload n a s).2 = { s with trace := (readPayload n a s).2.trace } := by
  induction n generalizing a s with
  | zero => rfl
  | succ n ih => exact ih (a + 1) (ramReadOp a s)

theorem readPayload_cfg (n : Nat) (a : Word) (s : State) : (readPayload n a s).2.cfg = s.cfg := by
  rw [readPayload_state]

theorem readPayload_dev (n : Nat) (a : Word) (s : State) : (readPayload n a s).2.dev = s.dev := by
  rw [readPayload_state]

theorem readPayload_host (n : Nat) (a : Word) (s : State) : (readPayload n a s).2.host = s.host := by
  rw [readPayload_state]

/-- What makes the rest of a PROGRAM leave its bytes: an idle device, and the range from CURSOR on in geometry, within
the address width and erased (R67, R151, R265). -/
structure Programmable (start length : Word) (s : State) : Prop where
  split : SplitAt start length s
  wf : s.cfg.wf = true
  idle : s.dev.busy = .idle
  geom : start.toNat + length.toNat ≤ s.cfg.geom.totalSize.toNat
  width : start.toNat + length.toNat ≤ 2 ^ (8 * s.cfg.cat.addressBytes)
  erased : ∀ x, s.spl.cursor.toNat ≤ x → x < start.toNat + length.toNat →
    flashByte s.dev x = s.cfg.geom.eraseValue

/-- The flash bytes with the buffer's bytes programmed at `[lo, hi)` (R151). -/
def programmed (s : State) (start buf : Word) (lo hi x : Nat) : Byte :=
  if lo ≤ x ∧ x < hi then bufferByte s.host.ram buf (x - start.toNat) else flashByte s.dev x

/-- The payload byte for offset `x` of the chunk at CURSOR is the buffer's byte for `x` (R151). -/
theorem payload_getD {start cursor : Word} (hle : start.toNat ≤ cursor.toNat) (buf : Word) {n x : Nat} (s : State)
    (hx : cursor.toNat ≤ x) (hn : x < cursor.toNat + n) :
    (readPayload n (buf + (cursor - start)) s).1.getD (x - cursor.toNat) 0 =
      bufferByte s.host.ram buf (x - start.toNat) := by
  have haddr : cursor - start + BitVec.ofNat 32 (x - cursor.toNat) = BitVec.ofNat 32 (x - start.toNat) := by
    have hc : cursor = BitVec.ofNat 32 cursor.toNat := by simp
    have hsub : x - start.toNat = x - cursor.toNat + (cursor - start).toNat := by
      rw [BitVec.toNat_sub_of_le (BitVec.le_def.2 hle)]
      omega
    rw [hsub, BitVec.ofNat_add, BitVec.ofNat_toNat, BitVec.setWidth_eq, BitVec.add_comm]
  have hlt : x - cursor.toNat < n := by omega
  rw [readPayload_bytes, bufferByte, ← haddr, ← BitVec.add_assoc, List.getD_eq_getElem?_getD]
  simp [hlt]

/-- One pass of the loop of R150, its calls answered OK. -/
theorem programChunk_leaves {cs : List Call} {start length : Word} (buf : Word) {s : State}
    (hp : Programmable start length s) (hr : s.spl.remain ≠ 0)
    (h : obliges (wcmdCalls s.cfg.cat s.cfg.cat.tProgram ++ cs) s.dev.script = true) :
    ∃ u, programChunk start buf s = .going u ∧ u.spl = (advanceChunk s).spl ∧ obliges cs u.dev.script = true ∧
      LeavesBytes (programmed s start buf s.spl.cursor.toNat (s.spl.cursor.toNat + s.spl.chunk.toNat)) s u := by
  have hchunk := hp.split.chunk
  have hlast := hp.split.last
  have hgeom := hp.geom
  have hwidth := hp.width
  have hcfg (a : Word) := readPayload_cfg s.spl.chunk.toNat a s
  have hdev (a : Word) := readPayload_dev s.spl.chunk.toNat a s
  have hlen (a : Word) := readPayload_length s.spl.chunk.toNat a s
  obtain ⟨u, hu, hcs, hleaves⟩ := wcmd_pageProgram (cs := cs) (c := s.spl.cursor.toNat) (t := s.cfg.cat.tProgram)
    (s := (readPayload s.spl.chunk.toNat (buf + (s.spl.cursor - start)) s).2)
    (payload := (readPayload s.spl.chunk.toNat (buf + (s.spl.cursor - start)) s).1)
    (by rwa [hcfg, hdev]) (by rw [hcfg]; exact hp.wf) (by rw [hdev]; exact hp.idle)
    (by rw [hlen]; exact hp.split.chunk_pos hr) (by rw [hlen, hcfg]; omega) (by rw [hlen, hcfg]; omega)
    (by rw [hlen, hcfg]; omega) (by rw [hlen, hcfg, hdev]; exact fun x hx hlt => hp.erased x hx (by omega)) s.spl.cursor
  rw [hlen] at hleaves
  obtain ⟨huc, hus, -⟩ := wcmd_going hu
  have hc : u.cfg = s.cfg := huc.trans (hcfg _)
  have hs : u.spl = s.spl := hus.trans (readPayload_spl _ _ s)
  refine ⟨advanceChunk u, ?_, ?_, hcs, ?_⟩
  · unfold programChunk
    simp only [hu, andThen_going]
  · simp only [advanceChunk_spl, hc, hs]
  · refine ⟨hc, ?_, hleaves.idle, fun x => ?_⟩
    · exact hleaves.host.trans (readPayload_host _ _ s)
    · refine (hleaves.byte x).trans (ite_congr rfl (fun hx => ?_) fun _ => by rw [hdev])
      exact payload_getD hp.split.first buf s hx.1 hx.2

theorem Programmable.next {start length buf : Word} {s u : State} (hp : Programmable start length s)
    (hs : u.spl = (advanceChunk s).spl)
    (hu : LeavesBytes (programmed s start buf s.spl.cursor.toNat (s.spl.cursor.toNat + s.spl.chunk.toNat)) s u) :
    Programmable start length u := by
  refine ⟨hp.split.advance.of_eq hu.cfg hs, hu.cfg ▸ hp.wf, hu.idle, hu.cfg ▸ hp.geom, hu.cfg ▸ hp.width,
    fun x hx hlt => ?_⟩
  rw [hs, advanceChunk_spl, hp.split.cursor_add] at hx
  rw [hu.byte, hu.cfg, programmed, if_neg (by omega)]
  exact hp.erased x (by omega) hlt

/-- Programming up to `mid` and then from `mid` on. -/
theorem programmed_append {s u : State} {start buf : Word} {lo mid : Nat}
    (hu : LeavesBytes (programmed s start buf lo mid) s u) {hi : Nat} (hlo : lo ≤ mid) (hhi : mid ≤ hi) (x : Nat) :
    programmed u start buf mid hi x = programmed s start buf lo hi x := by
  unfold programmed
  rw [hu.byte, hu.host, programmed]
  by_cases hx : mid ≤ x ∧ x < hi
  · rw [if_pos hx, if_pos (by omega)]
  · rw [if_neg hx]
    exact if_congr (by omega) rfl rfl

/-- The loop of R150, its calls answered OK, programs the range from CURSOR on. -/
theorem programLoop_leaves {cs : List Call} {start length : Word} (buf : Word) (n : Nat) {s : State}
    (hp : Programmable start length s) (hn : s.spl.remain.toNat ≤ n)
    (h : obliges ((List.replicate (chunkList s.cfg.geom.pageSize.toNat s.spl.cursor.toNat s.spl.remain.toNat).length
      (wcmdCalls s.cfg.cat s.cfg.cat.tProgram)).flatten ++ cs) s.dev.script = true) :
    ∃ u, programLoop start buf n s = .going u ∧ obliges cs u.dev.script = true ∧
      LeavesBytes (programmed s start buf s.spl.cursor.toNat (start.toNat + length.toNat)) s u := by
  have hempty {s : State} (hp : Programmable start length s) (h0 : s.spl.remain.toNat = 0) :
      LeavesBytes (programmed s start buf s.spl.cursor.toNat (start.toNat + length.toNat)) s s := by
    have hlast := hp.split.last
    refine (LeavesBytes.refl hp.idle).congr fun x => ?_
    rw [programmed, if_neg (by omega)]
  induction n generalizing s with
  | zero =>
    have h0 := Nat.le_zero.1 hn
    exact ⟨s, rfl, by simpa [h0, chunkList] using h, hempty hp h0⟩
  | succ n ih =>
    unfold programLoop
    split_ifs with hr
    · have h0 : s.spl.remain.toNat = 0 := by rw [hr]; rfl
      exact ⟨s, rfl, by simpa [h0, chunkList] using h, hempty hp h0⟩
    · have hpos := hp.split.chunk_pos hr
      have hchunk := hp.split.chunk
      have hlast := hp.split.last
      rw [chunkList_of_ne_zero hp.split.page (by omega), ← hchunk, List.length_cons, List.replicate_succ,
        List.flatten_cons, List.append_assoc] at h
      obtain ⟨u, hu, hspl, hcs, hleaves⟩ := programChunk_leaves buf hp hr h
      have hcursor : u.spl.cursor.toNat = s.spl.cursor.toNat + s.spl.chunk.toNat := by
        rw [hspl, advanceChunk_spl, hp.split.cursor_add]
      have hremain : u.spl.remain.toNat = s.spl.remain.toNat - s.spl.chunk.toNat := by
        rw [hspl, advanceChunk_spl, hp.split.remain_sub]
      rw [hu, andThen_going]
      obtain ⟨v, hv, hcs', hrest⟩ := ih (hp.next hspl hleaves) (by omega) (by rwa [hleaves.cfg, hcursor, hremain])
      rw [hcursor] at hrest
      exact ⟨v, hv, hcs', (hleaves.trans hrest).congr (programmed_append hleaves (by omega) (by omega))⟩

/-- A PROGRAM of an erased range inside an idle device, its calls answered OK, leaves the buffer's bytes in the range
and every other byte as it was (R67, R151). -/
theorem exec_program_leaves {cs : List Call} {s : State} {start length : Word} (buf : Word)
    (hready : s.Ready start length) (hlen : length ≠ 0)
    (h : obliges (toggleCalls .indirect s.mode ++
      ((List.replicate (chunkList s.cfg.geom.pageSize.toNat start.toNat length.toNat).length
        (wcmdCalls s.cfg.cat s.cfg.cat.tProgram)).flatten ++ cs)) s.dev.script = true)
    (hidle : s.dev.busy = .idle) (hgeom : start.toNat + length.toNat ≤ s.cfg.geom.totalSize.toNat)
    (hwidth : start.toNat + length.toNat ≤ 2 ^ (8 * s.cfg.cat.addressBytes))
    (herased : ∀ i, i < length.toNat → flashByte s.dev (start.toNat + i) = s.cfg.geom.eraseValue) :
    ∃ t, exec (.program start length buf) s = .next t ∧ obliges cs t.dev.script = true ∧
      LeavesBytes (programmed s start buf start.toNat (start.toNat + length.toNat)) s t := by
  obtain ⟨hw, hinit, hfit⟩ := hready
  have haccept := leavesBytes_accept hidle 2
  obtain ⟨u, hu, htoggle, hcs⟩ := ensureIndirect_of_obliges haccept.idle
    (by rwa [accept_mode, accept_dev]) start
  have hsu : LeavesBytes (flashByte s.dev) s (splitStart start length u) :=
    ((haccept.trans htoggle).congr haccept.byte).of_eq rfl rfl rfl
  have hp : Programmable start length (splitStart start length u) := by
    refine ⟨splitAt_splitStart (pageSize_pos (hsu.cfg ▸ hw)) hfit, hsu.cfg ▸ hw, hsu.idle, hsu.cfg ▸ hgeom,
      hsu.cfg ▸ hwidth, fun x (hx : start.toNat ≤ x) hlt => ?_⟩
    rw [hsu.byte, hsu.cfg, ← herased (x - start.toNat) (by omega), Nat.add_sub_cancel' hx]
  obtain ⟨v, hv, hcs', hleaves⟩ := programLoop_leaves buf length.toNat hp (Nat.le_refl _)
    (by rw [hsu.cfg]; exact hcs)
  refine ⟨respond okResponse v, ?_, by rwa [respond_dev], ((hsu.trans hleaves).respond _).congr fun x => ?_⟩
  · refine (exec_program start length buf s).trans
      (runRequest_eq_next.2 ⟨requestRefusal_eq_none.2 ⟨hw, fun _ => hinit, hfit⟩, ?_⟩)
    rw [programBody, if_neg hlen, hu, andThen_going, hv, finish_going]
  · rw [programmed, hsu.byte, hsu.host]
    rfl

/-! ### VERIFY of equal bytes -/

theorem keepsHost_of_steps {b : Bool} {s t : State} (h : Steps b s t) : KeepsHost b s t := by
  induction h with
  | refl => exact ⟨rfl, rfl, fun _ => rfl⟩
  | tail _ hp ih =>
    have hk := keepsHost_of_prim hp
    exact ⟨hk.host.trans ih.host, hk.pos.trans ih.pos, fun hi => (hk.initDone hi).trans (ih.initDone hi)⟩

/-- The loop of R205 where each byte left equals its buffer byte. -/
theorem verifyLoop_rsp_of_equal (start buf ck : Word) (n : Nat) {s : State}
    (h : ∀ j, j < n → windowByte s.cfg s.dev (start + (s.vfy.vidx + BitVec.ofNat 32 j)).toNat =
      ramByte s.host.ram (buf + (s.vfy.vidx + BitVec.ofNat 32 j))) :
    (verifyLoop start buf ck n s).rsp = { okResponse with checksum := ck } := by
  induction n generalizing s with
  | zero => exact respond_rsp _ s
  | succ n ih =>
    have h0 : (readLanes (start + s.vfy.vidx).toNat 1 s).getD 0 0 = ramByte s.host.ram (buf + s.vfy.vidx) := by
      have hfirst := h 0 (Nat.succ_pos n)
      rw [show s.vfy.vidx + BitVec.ofNat 32 0 = s.vfy.vidx from BitVec.add_zero _] at hfirst
      exact hfirst
    unfold verifyLoop
    simp only
    rw [if_pos h0]
    refine ih fun j hj => ?_
    have hnext := h (j + 1) (Nat.succ_lt_succ hj)
    rw [Nat.add_comm, BitVec.ofNat_add, ← BitVec.add_assoc s.vfy.vidx] at hnext
    exact hnext

/-- VERIFY of a range of an idle device whose bytes equal the buffer's answers OK with no mismatch (R207). -/
theorem exec_verify_of_equal {s : State} {start length : Word} (seed buf : Word) (hready : s.Ready start length)
    (h : obliges (toggleCalls .mapped s.mode ++ []) s.dev.script = true)
    (hidle : s.dev.busy = .idle) (hgeom : start.toNat + length.toNat ≤ s.cfg.geom.totalSize.toNat)
    (hequal : ∀ i, i < length.toNat → flashByte s.dev (start.toNat + i) = bufferByte s.host.ram buf i) :
    ∃ t, exec (.verify start length seed buf) s = .next t ∧ t.rsp.status = .ok ∧ t.rsp.mmValid = false := by
  obtain ⟨hw, hinit, hfit⟩ := hready
  have haccept := leavesBytes_accept hidle 6
  obtain ⟨u, hu, htoggle, -⟩ := ensureMapped_of_obliges haccept.idle (by rwa [accept_mode, accept_dev]) start
  have hsu := (haccept.trans htoggle).congr haccept.byte
  have hreads := (onlyReads_checksumCore start length seed u).dev
  have hsteps := steps_checksumCore (b := false) start length seed u
  have hcfg := (extends_of_steps hsteps).cfg.trans hsu.cfg
  have hhost := (keepsHost_of_steps hsteps).host.trans hsu.host
  refine ⟨_, (exec_verify start length seed buf s).trans
    (runRequest_eq_next.2 ⟨requestRefusal_eq_none.2 ⟨hw, fun _ => hinit, hfit⟩, rfl⟩), ?_⟩
  by_cases hlen : length = 0
  · simp [verifyBody, hlen, okResponse, Response.zero]
  · suffices hrsp : (verifyBody start length seed buf (accept 6 s)).rsp =
        { okResponse with checksum := (checksumCore start length seed u).cks.acc } by
      rw [hrsp]
      exact ⟨rfl, rfl⟩
    rw [verifyBody, if_neg hlen, hu, finish_going]
    refine verifyLoop_rsp_of_equal _ _ _ _ fun i hi => ?_
    have hoffset : (start + (0 + BitVec.ofNat 32 i)).toNat = start.toNat + i := by
      rw [zero_add, BitVec.toNat_add, BitVec.toNat_ofNat, Nat.mod_eq_of_lt (a := i) (by omega),
        Nat.mod_eq_of_lt (by omega)]
    change windowByte (checksumCore start length seed u).cfg (checksumCore start length seed u).dev
      (start + (0 + BitVec.ofNat 32 i)).toNat =
      ramByte (checksumCore start length seed u).host.ram (buf + (0 + BitVec.ofNat 32 i))
    rw [hoffset, zero_add, hhost, hreads.windowByte, hcfg, windowByte, if_pos (by omega), hsu.byte, hequal i hi]
    rfl

/-- Settles O34: the PROGRAM leaves the buffer's bytes, and the VERIFY compares the same bytes with that buffer. -/
theorem programThenVerifyFindsNoMismatch : Obligations.ProgramThenVerifyFindsNoMismatch := by
  intro s start length buf seed hready hlen chunks h hidle hgeom hwidth herased
  rw [List.append_assoc] at h
  obtain ⟨t, ht, hcs, hleaves⟩ := exec_program_leaves buf hready hlen h hidle hgeom hwidth herased
  obtain ⟨hw, hinit, hfit⟩ := hready
  have hready' : t.Ready start length :=
    ⟨hleaves.cfg ▸ hw, ((exec_keepsHost ht).initDone rfl).trans hinit, hfit⟩
  have htoggle : obliges (toggleCalls .mapped t.mode ++ []) t.dev.script = true := by
    cases hm : t.mode with
    | indirect => exact hcs
    | mapped => exact obliges_nil _
  obtain ⟨u, hu, hok, hmm⟩ := exec_verify_of_equal seed buf hready' htoggle hleaves.idle (hleaves.cfg ▸ hgeom)
    fun i hi => by
      rw [hleaves.byte, hleaves.host, programmed, if_pos (by omega), Nat.add_sub_cancel_left]
  exact ⟨t, u, ht, hu, hok, hmm⟩

end Sys2Proof.Machine
end

section
/-! PROOFS of the family 30_encoding: the records of R76 to R89 read back, illegal requests (R78, R226), the response
words (R80, R81), the elementary command and its lines (R92, R135), and the text of requests (R90). -/

namespace Sys2Proof.Machine


/-! ## The fields of an encoded command word (R82, R104) -/

/-- A field that a word was assembled from by a shift is read back at its place. -/
theorem extractLsb'_shifted_same {n : Nat} (x : BitVec n) {i : Nat} (h : i + n ≤ 32) :
    (x.setWidth 32 <<< i).extractLsb' i n = x := by
  refine BitVec.eq_of_getLsbD_eq fun j hj => ?_
  have hlt : i + j < 32 := by omega
  have hj32 : j < 32 := by omega
  rw [BitVec.getLsbD_extractLsb', BitVec.getLsbD_shiftLeft, BitVec.getLsbD_setWidth]
  simp [hj, hlt, hj32]

/-- A field that lies elsewhere in the word is not seen. -/
theorem extractLsb'_shifted_other {n : Nat} (x : BitVec n) {i j m : Nat} (h : i + n ≤ j ∨ j + m ≤ i) :
    (x.setWidth 32 <<< i).extractLsb' j m = 0#m := by
  refine BitVec.eq_of_getLsbD_eq fun l hl => ?_
  rw [BitVec.getLsbD_extractLsb', BitVec.getLsbD_shiftLeft, BitVec.getLsbD_setWidth, BitVec.getLsbD_zero]
  obtain h | h := h
  · simp [BitVec.getLsbD_of_ge x (j + l - i) (by omega)]
  · simp [show j + l < i by omega]

/-- The command word with its opcode byte shifted too, so that every field is `x <<< i` for some `i`. -/
theorem encodeWord0_eq_shifted (cat : Catalog) (k : Kind) : encodeWord0 cat k =
    ((cat.entry k).opcode.setWidth 32 <<< 0) ||| ((imodeOf cat k).setWidth 32 <<< 8)
      ||| ((admodeOf cat k).setWidth 32 <<< 10) ||| ((adsizeOf cat k).setWidth 32 <<< 12)
      ||| ((abmodeOf cat k).setWidth 32 <<< 14) ||| ((absizeOf cat k).setWidth 32 <<< 16)
      ||| ((dcycOf cat k).setWidth 32 <<< 18) ||| ((dmodeOf cat k).setWidth 32 <<< 23)
      ||| ((dataDir k).setWidth 32 <<< 25) ||| ((BitVec.ofBool (cat.entry k).dtr).setWidth 32 <<< 27) := by
  rw [BitVec.shiftLeft_zero, encodeWord0]

/-- Every field of R82 that `Encode` writes is read back from the command word, and bits [31:28] are 0. -/
@[simp] theorem fields_encodeWord0 (cat : Catalog) (k : Kind) :
    opcodeField (encodeWord0 cat k) = (cat.entry k).opcode ∧ imodeField (encodeWord0 cat k) = imodeOf cat k ∧
    admodeField (encodeWord0 cat k) = admodeOf cat k ∧ adsizeField (encodeWord0 cat k) = adsizeOf cat k ∧
    abmodeField (encodeWord0 cat k) = abmodeOf cat k ∧ absizeField (encodeWord0 cat k) = absizeOf cat k ∧
    dcycField (encodeWord0 cat k) = dcycOf cat k ∧ dmodeField (encodeWord0 cat k) = dmodeOf cat k ∧
    dtrField (encodeWord0 cat k) = BitVec.ofBool (cat.entry k).dtr ∧ zeroField (encodeWord0 cat k) = 0#4 := by
  rw [encodeWord0_eq_shifted]
  refine ⟨?_, ?_, ?_, ?_, ?_, ?_, ?_, ?_, ?_, ?_⟩
  all_goals
    simp [opcodeField, imodeField, admodeField, adsizeField, abmodeField, absizeField, dcycField, dmodeField, dtrField,
      zeroField, BitVec.extractLsb'_or, extractLsb'_shifted_same, extractLsb'_shifted_other, -BitVec.shiftLeft_zero]

/-! ## What a well-formed configuration gives the encoder (R10, R101) -/

theorem mem_allKinds (k : Kind) : k ∈ allKinds := by
  cases k <;> decide

/-- A width of R10 has code 0 only where the phase is absent (R83). -/
theorem lineCode_ne_zero {n : Nat} (h : widthOk n = true) (hn : n ≠ 0) : lineCode n ≠ 0 := by
  simp only [widthOk, Bool.or_eq_true, beq_iff_eq] at h
  obtain ((rfl | rfl) | rfl) | rfl := h
  · exact absurd rfl hn
  all_goals decide

/-- Under a well-formed configuration a phase that R101 gives the kind has a width, so its code is not 0. -/
theorem lineModes_of_wf {cfg : Cfg} (hw : cfg.wf = true) (k : Kind) :
    imodeOf cfg.cat k ≠ 0 ∧ (hasAddr k = true → admodeOf cfg.cat k ≠ 0) ∧
      (hasAlt cfg.cat k = true → abmodeOf cfg.cat k ≠ 0) := by
  have hk : (entryOk (cfg.cat.entry k) && phasesOk cfg.cat k && presenceOk cfg.cat k) = true :=
    List.all_eq_true.1 (Bool.and_eq_true_iff.1 hw).2 k (mem_allKinds k)
  simp only [entryOk, phasesOk, Bool.and_eq_true, Bool.or_eq_true, Bool.not_eq_true', bne_iff_ne] at hk
  obtain ⟨⟨⟨⟨⟨⟨⟨⟨hi, hi0⟩, ha⟩, hb⟩, -⟩, -⟩, -⟩, ⟨ha0, -⟩, hb0⟩, -⟩ := hk
  refine ⟨lineCode_ne_zero hi hi0, fun h => ?_, fun h => ?_⟩
  · rw [admodeOf, if_pos h]
    exact lineCode_ne_zero ha (ha0.resolve_left (by simp [h]))
  · rw [abmodeOf, if_pos h]
    exact lineCode_ne_zero hb (hb0.resolve_left (by simp [h]))

theorem dataDir_ne_three (k : Kind) : dataDir k ≠ 3 := by
  cases k <;> decide

/-- Settles O5: a phase whose mode is 0 is absent, and then its size and its word are 0 too. -/
theorem encoderNeverProducesReserved : Obligations.EncoderNeverProducesReserved := by
  intro cfg k a payload hw
  obtain ⟨himode, haddr, halt⟩ := lineModes_of_wf hw k
  simp only [encodeCmd, fields_encodeWord0, ddirField_encodeWord0]
  refine ⟨himode, dataDir_ne_three k, rfl, fun h => ?_, fun h => ?_⟩
  · have hno : ¬ hasAddr k = true := fun hk => haddr hk h
    simp [adsizeOf, hno]
  · have hno : ¬ hasAlt cfg.cat k = true := fun hk => halt hk h
    simp [absizeOf, hno]

/-- Settles O7: DDIR is the kind's data direction, and only PAGE_PROGRAM writes. -/
theorem recordLengthFromWords : Obligations.RecordLengthFromWords := by
  intro cfg k a payload _ hlen
  simp only [encodeCmd, ddirField_encodeWord0]
  cases k with
  | pageProgram => simpa [dataDir, nbytesOf] using (Nat.mod_eq_of_lt hlen).symm
  | resetEnable | reset | writeEnable | readStatus | sectorErase | chipErase | quadRead | enter4Byte => rfl

/-! ## Reading a BUSCMD back (R82, R85, R89, R93) -/

/-- The only element that meets the test is the one `find?` answers. -/
theorem find?_eq_some_of_unique {α : Type} {p : α → Bool} {l : List α} {x : α} (hx : x ∈ l) (hp : p x = true)
    (huniq : ∀ y, p y = true → y = x) : l.find? p = some x := by
  obtain ⟨y, hy⟩ := Option.isSome_iff_exists.1 (List.find?_isSome.2 ⟨x, hx, hp⟩)
  rw [hy, huniq y (List.find?_some hy)]

theorem kind_eq_of_opcode_eq {cat : Catalog} (hd : cat.distinctOpcodes = true) {j k : Kind}
    (h : (cat.entry j).opcode = (cat.entry k).opcode) : j = k :=
  List.inj_on_of_nodup_map (of_decide_eq_true hd) (mem_allKinds j) (mem_allKinds k) h

theorem kind_eq_of_encodeWord0_eq {cat : Catalog} (hd : cat.distinctOpcodes = true) {j k : Kind}
    (h : encodeWord0 cat j = encodeWord0 cat k) : j = k := by
  refine kind_eq_of_opcode_eq hd ?_
  rw [← (fields_encodeWord0 cat j).1, h, (fields_encodeWord0 cat k).1]

theorem kindOf_opcode {cat : Catalog} (hd : cat.distinctOpcodes = true) (k : Kind) :
    kindOf cat (cat.entry k).opcode = some k :=
  find?_eq_some_of_unique (mem_allKinds k) (beq_self_eq_true _) fun _ h => kind_eq_of_opcode_eq hd (eq_of_beq h)

theorem legalDescriptor_encodeCmd {cfg : Cfg} (hw : cfg.wf = true) (k : Kind) (a : Nat) (payload : List Byte) :
    legalDescriptor (encodeCmd cfg.cat k a payload).w0 (encodeCmd cfg.cat k a payload).w1
      (encodeCmd cfg.cat k a payload).w2 = true := by
  obtain ⟨himode, hddir, hzero, haddr, halt⟩ := encoderNeverProducesReserved cfg k a payload hw
  simp only [legalDescriptor, Bool.and_eq_true, Bool.or_eq_true, bne_iff_ne, beq_iff_eq]
  exact ⟨⟨⟨⟨himode, hddir⟩, hzero⟩, or_iff_not_imp_left.2 fun h => haddr (not_not.1 h)⟩,
    or_iff_not_imp_left.2 fun h => halt (not_not.1 h)⟩

/-- The record of an encoded command decodes to its kind, with the offset in ADDRESS and the payload of its record. -/
theorem decode_cmdRecord {cfg : Cfg} (hw : cfg.wf = true) (hd : cfg.cat.distinctOpcodes = true) (k : Kind) (a : Nat)
    {payload : List Byte} (hlen : payload.length < 2 ^ 32) :
    decode cfg.cat (cmdRecord (encodeCmd cfg.cat k a payload)) =
      .ok (cmdInstr k (encodeCmd cfg.cat k a payload).w1 (encodeCmd cfg.cat k a payload).payload) := by
  have hlegal := legalDescriptor_encodeCmd hw k a payload
  have hpayload := recordLengthFromWords cfg k a payload hw hlen
  have hkind : kindOf cfg.cat (opcodeField (encodeCmd cfg.cat k a payload).w0) = some k := by
    rw [encodeCmd, (fields_encodeWord0 _ _).1, kindOf_opcode hd]
  simp only [decode, cmdRecord, decodeCmd, List.getD_cons_zero, List.getD_cons_succ, hlegal, Bool.or_true, if_true,
    hkind]
  exact if_pos hpayload

/-- An address is assembled once: ADDRESS names itself (R103). -/
theorem busAddress_toNat_busAddress {cfg : Cfg} (hw : cfg.wf = true) (a : Nat) :
    busAddress cfg.cat (busAddress cfg.cat a).toNat = busAddress cfg.cat a := by
  have hle : 2 ^ (8 * cfg.cat.addressBytes) ≤ 2 ^ 32 := by
    obtain hb | hb := (globals_of_wf hw).1 <;> simp [hb]
  have hlt : a % 2 ^ (8 * cfg.cat.addressBytes) < 2 ^ (8 * cfg.cat.addressBytes) :=
    Nat.mod_lt _ (Nat.two_pow_pos _)
  rw [busAddress, busAddress, BitVec.toNat_ofNat, Nat.mod_eq_of_lt (hlt.trans_le hle), Nat.mod_mod]

/-- Encoding a kind again with the operands its record holds gives the same command. -/
theorem encodeCmd_encodeCmd {cfg : Cfg} (hw : cfg.wf = true) (k : Kind) (a : Nat) (payload : List Byte) :
    encodeCmd cfg.cat k (encodeCmd cfg.cat k a payload).w1.toNat (encodeCmd cfg.cat k a payload).payload =
      encodeCmd cfg.cat k a payload := by
  have haddr := busAddress_toNat_busAddress hw a
  cases k with
  | pageProgram | sectorErase | quadRead => simp [encodeCmd, hasAddr, haddr, dataDir, nbytesOf]
  | resetEnable | reset | writeEnable | readStatus | chipErase | enter4Byte => rfl

/-- The BUSCMD operand of a call is read back whole (R85). -/
theorem operandCmd_encodeCmd {cfg : Cfg} (hw : cfg.wf = true) (hd : cfg.cat.distinctOpcodes = true) (k : Kind) (a : Nat)
    (payload : List Byte) :
    operandCmd cfg.cat (encodeCmd cfg.cat k a payload).w0 (encodeCmd cfg.cat k a payload).w1
      (encodeCmd cfg.cat k a payload).w2 (encodeCmd cfg.cat k a payload).w3 (encodeCmd cfg.cat k a payload).payload =
        some (encodeCmd cfg.cat k a payload) := by
  rw [operandCmd, List.find?_map, find?_eq_some_of_unique (mem_allKinds k)]
  · exact congrArg some (encodeCmd_encodeCmd hw k a payload)
  · simp [encodeCmd_encodeCmd hw k a payload]
  · intro j hj
    simp only [Function.comp_apply, Bool.and_eq_true, beq_iff_eq] at hj
    obtain ⟨⟨⟨⟨hw0, -⟩, -⟩, -⟩, -⟩ := hj
    exact kind_eq_of_encodeWord0_eq hd hw0

/-- A record whose words and payload no kind encodes to has no operand. -/
theorem operandCmd_eq_none {cat : Catalog} {c : BusCmd}
    (h : ∀ k a payload, { encodeCmd cat k a payload with kind := c.kind } ≠ c) :
    operandCmd cat c.w0 c.w1 c.w2 c.w3 c.payload = none := by
  refine List.find?_eq_none.2 fun x hx hmatch => ?_
  obtain ⟨k, -, rfl⟩ := List.mem_map.1 hx
  simp only [Bool.and_eq_true, beq_iff_eq] at hmatch
  obtain ⟨⟨⟨⟨h0, h1⟩, h2⟩, h3⟩, hp⟩ := hmatch
  refine h k c.w1.toNat c.payload ?_
  simp only [h0, h1, h2, h3, hp]

theorem pollSpecOf_pollSpecWords (spec : PollSpec) :
    pollSpecOf (spec.mask.setWidth 32 ||| (spec.value.setWidth 32 <<< 8)) spec.interval spec.timeout = some spec := by
  rw [← BitVec.shiftLeft_zero (spec.mask.setWidth 32), pollSpecOf]
  simp [BitVec.extractLsb'_or, extractLsb'_shifted_same, extractLsb'_shifted_other, -BitVec.shiftLeft_zero]

theorem decode_sendRecord {cfg : Cfg} (hw : cfg.wf = true) (hd : cfg.cat.distinctOpcodes = true) (k : Kind) (a : Nat)
    (payload : List Byte) : decode cfg.cat (callRecord 0 (encodeCmd cfg.cat k a payload) []) = .ok .send := by
  simp [decode, callRecord, decodeCall, operandCmd_encodeCmd hw hd]

theorem decode_pollRecord {cfg : Cfg} (hw : cfg.wf = true) (hd : cfg.cat.distinctOpcodes = true) (spec : PollSpec) :
    decode cfg.cat (callRecord 1 (encodeCmd cfg.cat .readStatus 0 []) (pollSpecWords spec)) = .ok (.poll spec) := by
  simp [decode, callRecord, decodeCall, operandCmd_encodeCmd hw hd, pollSpecWords, pollSpecOf_pollSpecWords]

theorem decode_mapRecord {cfg : Cfg} (hw : cfg.wf = true) (hd : cfg.cat.distinctOpcodes = true) :
    decode cfg.cat (callRecord 2 (encodeCmd cfg.cat .quadRead 0 []) []) = .ok .map := by
  simp [decode, callRecord, decodeCall, operandCmd_encodeCmd hw hd]

theorem decode_foreign {cat : Catalog} {c : BusCmd} (h0 : c.w0 ≠ 0)
    (h : ∀ k a payload, { encodeCmd cat k a payload with kind := c.kind } ≠ c) (tail : List Word) {kind : Word}
    (hk : kind.toNat ≤ 3) : decode cat (callRecord kind c tail) = .error .foreignCommand := by
  have hnone := operandCmd_eq_none h
  have habsent : noOperand c.w0 c.w1 c.w2 c.w3 c.payload = false := by
    simp only [noOperand, beq_false_of_ne h0, Bool.false_and]
  obtain hk | hk | hk | hk : kind.toNat = 0 ∨ kind.toNat = 1 ∨ kind.toNat = 2 ∨ kind.toNat = 3 := by omega
  all_goals simp [decode, callRecord, decodeCall, hnone, habsent, hk]

/-- Settles O59: the operand of a call is found again by `operandCmd_encodeCmd`, and is none for a foreign BUSCMD. -/
theorem callRecordsCarryTheirCommand : Obligations.CallRecordsCarryTheirCommand := fun _ hw hd =>
  ⟨fun k a payload => ⟨decode_sendRecord hw hd k a payload, operandCmd_encodeCmd hw hd k a payload⟩,
    decode_pollRecord hw hd, decode_mapRecord hw hd, fun _ tail h0 h _ hk => decode_foreign h0 h tail hk⟩

/-- An OP alone in a word leaves RSVD 0 (R76). -/
theorem rsvd_setWidth (op : BitVec 4) : (op.setWidth 32).extractLsb' 4 28 = 0#28 := by
  decide +revert

theorem decode_encode_request {cat : Catalog} {i : Instr} (h : isRequest i = true) :
    decode cat (encode cat i) = .ok i := by
  cases i with
  | init | program | eraseRange | eraseAll | checksum | verify =>
    simp only [decode, encode, recordReq, decodeReq, List.getD_cons_zero, rsvd_setWidth, if_true]; rfl
  | resetEnable | reset | writeEnable | readStatus | pageProgram | sectorErase | chipErase | quadRead | enter4Byte
  | send | poll | map | abort => cases h
/-- A word offset that fits ADDRESS is ADDRESS (R103). -/
theorem encodeCmd_w1_eq {cfg : Cfg} (hw : cfg.wf = true) {k : Kind} (hk : hasAddr k = true) {offset : Word}
    (ho : offset.toNat < 2 ^ (8 * cfg.cat.addressBytes)) (payload : List Byte) :
    (encodeCmd cfg.cat k offset.toNat payload).w1 = offset :=
  BitVec.eq_of_toNat_eq (encodeCmd_w1_of_lt hw hk ho payload)

/-- Settles O1: the requests by their words, the bus commands by `decode_cmdRecord`, the calls by their operand. -/
theorem decodeOfEncodeIsTheInstruction : Obligations.DecodeOfEncodeIsTheInstruction := by
  intro cfg i hw hd hi
  have hcmd (k : Kind) := decode_cmdRecord hw hd k 0 (payload := []) (by simp)
  cases i with
  | init | program | eraseRange | eraseAll | checksum | verify => exact decode_encode_request rfl
  | resetEnable | reset | writeEnable | readStatus | chipErase | quadRead | enter4Byte => exact hcmd _
  | pageProgram offset payload =>
    obtain ⟨ho, hlen⟩ : offset.toNat < 2 ^ (8 * cfg.cat.addressBytes) ∧ payload.length < 2 ^ 32 := by
      simpa [Instr.wf] using hi
    refine (decode_cmdRecord hw hd .pageProgram offset.toNat hlen).trans ?_
    rw [encodeCmd_w1_eq hw rfl ho]; rfl
  | sectorErase offset =>
    refine (decode_cmdRecord hw hd .sectorErase offset.toNat (by simp)).trans ?_
    rw [encodeCmd_w1_eq hw rfl (of_decide_eq_true hi)]; rfl
  | send | abort => rfl
  | poll spec => exact decode_pollRecord hw hd spec
  | map => exact decode_mapRecord hw hd

/-- Settles O2: by evaluating the decoder on the words. -/
theorem knownWordsDecode : Obligations.KnownWordsDecode := by
  unfold Obligations.KnownWordsDecode
  decide

/-! ## HOSTREQ words (R76 to R79) -/

theorem rsvd_eq_zero_iff (w : Word) : w.extractLsb' 4 28 = 0#28 ↔ w.toNat / 16 = 0 := by
  have hlt : w.toNat / 16 < 2 ^ 28 := by omega
  rw [← BitVec.toNat_inj, BitVec.extractLsb'_toNat, Nat.shiftRight_eq_div_pow, Nat.mod_eq_of_lt hlt]
  rfl

theorem op_toNat (w : Word) : (w.extractLsb' 0 4).toNat = w.toNat % 16 := by
  rw [BitVec.extractLsb'_toNat, Nat.shiftRight_zero]

theorem decodeReq_eq_none_iff (r : HostReq) :
    decodeReq r = none ↔ (r.w0.toNat % 16 = 0 ∨ 7 ≤ r.w0.toNat % 16 ∨ r.w0.toNat / 16 ≠ 0) := by
  rw [decodeReq, op_toNat]
  by_cases hr : r.w0.toNat / 16 = 0
  · rw [if_pos ((rsvd_eq_zero_iff _).2 hr)]
    have hop : r.w0.toNat % 16 < 16 := Nat.mod_lt _ (by decide)
    simp only [hr, ne_eq, not_true_eq_false, or_false]
    generalize r.w0.toNat % 16 = op at hop ⊢
    interval_cases op <;> simp
  · simp [rsvd_eq_zero_iff, hr]

theorem step_of_illegalRequest {s : State} {req : HostReq} {buffer : List (Word × Byte)} {moves : List HostMove}
    (hw : s.cfg.wf = true) (hp : s.seq.pos = none) (hm : s.host.moves = .request req buffer :: moves)
    (hd : decodeReq req = none) : step s = .next (illegalResponse (takeMove moves buffer s)) := by
  simp [step, hw, hp, hm, hd]

/-- Settles O3: `illegalResponse` writes the response registers alone. -/
theorem illegalRequestsAreAnswered : Obligations.IllegalRequestsAreAnswered :=
  ⟨decodeReq_eq_none_iff, fun _ _ _ _ hw hp hm hd => ⟨_, step_of_illegalRequest hw hp hm hd, rfl, rfl, rfl⟩⟩

/-- Settles O4: the OP chooses the operation, which uses the words that are taken to agree. -/
theorem unusedRequestWordsAreIgnored : Obligations.UnusedRequestWordsAreIgnored := by
  intro r q h0
  refine ⟨fun h => ?_, fun h hs hl hb => ?_, fun h hs hl => ?_, fun h hs hl hseed => ?_, fun h hs hl hseed hb => ?_⟩
  · obtain h | h := h <;> simp [decodeReq, h0, h]
  · simp [decodeReq, h0, h, hs, hl, hb]
  · simp [decodeReq, h0, h, hs, hl]
  · simp [decodeReq, h0, h, hs, hl, hseed]
  · simp [decodeReq, h0, h, hs, hl, hseed, hb]


/-! ## The text of a request (R90) -/

/-! ### Numbers -/

/-- A hexadecimal digit is read as its value, and is no separator. -/
theorem hexDigit_spec {m : Nat} (h : m < 16) :
    digitValue 16 (hexDigit m) = some m ∧ hexDigit m ≠ ' ' ∧ hexDigit m ≠ ',' := by
  revert m; decide

theorem parseDigits_hexDigit {m : Nat} (h : m < 16) (acc : Nat) (tail : List Char) :
    parseDigits 16 acc (hexDigit m :: tail) = parseDigits 16 (acc * 16 + m) tail := by
  rw [parseDigits, (hexDigit_spec h).1]

/-- The digits of a number, read from the most significant on, are that number. -/
theorem parseDigits_hexDigits {fuel n : Nat} (h : n < 16 ^ fuel) (tail : List Char) :
    parseDigits 16 0 (hexDigits fuel n tail) = parseDigits 16 n tail := by
  induction fuel generalizing n tail with
  | zero =>
    obtain rfl : n = 0 := by simpa using h
    rfl
  | succ fuel ih =>
    rw [hexDigits]
    split_ifs with hn
    · rw [parseDigits_hexDigit hn, Nat.zero_mul, Nat.zero_add]
    · rw [ih (Nat.div_lt_of_lt_mul (by rwa [← Nat.pow_succ'])), parseDigits_hexDigit (Nat.mod_lt n (by decide)),
        Nat.div_add_mod']

theorem mem_hexDigits {fuel n : Nat} {tail : List Char} {c : Char} (h : c ∈ hexDigits fuel n tail) :
    c ∈ tail ∨ (c ≠ ' ' ∧ c ≠ ',') := by
  induction fuel generalizing n tail with
  | zero => exact .inl h
  | succ fuel ih =>
    rw [hexDigits] at h
    split_ifs at h with hn
    · obtain rfl | h := List.mem_cons.1 h
      · exact .inr (hexDigit_spec hn).2
      · exact .inl h
    · obtain h | h := ih h
      · obtain rfl | h := List.mem_cons.1 h
        · exact .inr (hexDigit_spec (Nat.mod_lt n (by decide))).2
        · exact .inl h
      · exact .inr h

theorem hexDigits_ne_nil {fuel : Nat} (n : Nat) {tail : List Char} (h : fuel ≠ 0 ∨ tail ≠ []) :
    hexDigits fuel n tail ≠ [] := by
  induction fuel generalizing n tail with
  | zero => simpa [hexDigits] using h
  | succ fuel ih =>
    rw [hexDigits]
    split_ifs
    · exact List.cons_ne_nil _ _
    · exact ih _ (.inr (List.cons_ne_nil _ _))

theorem toList_hexText (n : Nat) : (hexText n).toList = '0' :: 'x' :: hexDigits 16 n [] := by
  simp [hexText, String.toList_append]

theorem not_separator_of_mem_hexText {n : Nat} {c : Char} (h : c ∈ (hexText n).toList) : c ≠ ' ' ∧ c ≠ ',' := by
  rw [toList_hexText] at h
  obtain rfl | h := List.mem_cons.1 h
  · decide
  obtain rfl | h := List.mem_cons.1 h
  · decide
  exact (mem_hexDigits h).resolve_left List.not_mem_nil

theorem parseWord_hexText (w : Word) : parseWord (hexText w.toNat).toList = some w := by
  have hlt : w.toNat < 2 ^ 32 := w.isLt
  have hdigits : parseDigits 16 0 (hexDigits 16 w.toNat []) = some w.toNat :=
    parseDigits_hexDigits (hlt.trans (by decide)) []
  obtain ⟨d, ds, hd⟩ := List.exists_cons_of_ne_nil (hexDigits_ne_nil w.toNat (.inl (by decide : 16 ≠ 0)))
  rw [hd] at hdigits
  rw [toList_hexText, hd]
  simp only [parseWord, hdigits, if_pos hlt, BitVec.ofNat_toNat, BitVec.setWidth_eq]

/-! ### Operands -/

theorem pieces_eq_splitOn (sep : Char) (cs : List Char) : pieces sep cs = cs.splitOn sep := by
  induction cs with
  | nil => rfl
  | cons c cs ih =>
    obtain ⟨w, ws, hw⟩ := List.exists_cons_of_ne_nil (List.splitOnP_ne_nil (· == sep) cs)
    simp only [pieces, ih, List.splitOn, List.splitOnP_cons_eq_if_modifyHead, hw, List.modifyHead_cons, beq_iff_eq]

/-- The characters of each operand. -/
def operandChars (ws : List Word) : List (List Char) := ws.map fun w => (hexText w.toNat).toList

@[simp] theorem operandChars_cons (w : Word) (ws : List Word) :
    operandChars (w :: ws) = (hexText w.toNat).toList :: operandChars ws := rfl

/-- The operands of a request as R90 lists them. -/
def operandsText (ws : List Word) : String := String.intercalate ", " (ws.map fun w => hexText w.toNat)

/-- Without its blanks, the list is the numbers with a comma between each two. -/
theorem filter_operandsText (ws : List Word) :
    (operandsText ws).toList.filter (fun c => c != ' ') = [','].intercalate (operandChars ws) := by
  have hnumber (w : Word) : (hexText w.toNat).toList.filter (fun c => c != ' ') = (hexText w.toNat).toList :=
    List.filter_eq_self.2 fun c hc => bne_iff_ne.2 (not_separator_of_mem_hexText hc).1
  rw [operandsText, String.toList_intercalate, List.map_map]
  induction ws with
  | nil => rfl
  | cons w ws ih =>
    cases ws with
    | nil => simpa [operandChars] using hnumber w
    | cons v ws => simpa [operandChars, List.intercalate_cons_cons, hnumber w] using ih

theorem mapM_parseWord_hexText (ws : List Word) : (operandChars ws).mapM parseWord = some ws := by
  induction ws with
  | nil => rfl
  | cons w ws ih => simp [parseWord_hexText, ih]

theorem parseOperands_operandsText {ws : List Word} (h : ws ≠ []) :
    parseOperands (' ' :: (operandsText ws).toList) = some ws := by
  have hfilter : (' ' :: (operandsText ws).toList).filter (fun c => c != ' ') =
      [','].intercalate (operandChars ws) := filter_operandsText ws
  have hpieces : pieces ',' ([','].intercalate (operandChars ws)) = operandChars ws := by
    rw [pieces_eq_splitOn]
    refine List.splitOn_intercalate _ ?_ (by simpa [operandChars] using h)
    intro l hl hc
    obtain ⟨w, -, rfl⟩ := List.mem_map.1 hl
    exact (not_separator_of_mem_hexText hc).2 rfl
  have hne : [','].intercalate (operandChars ws) ≠ [] := by
    intro h0
    obtain ⟨w, ws, rfl⟩ := List.exists_cons_of_ne_nil h
    rw [h0, operandChars_cons, toList_hexText] at hpieces
    cases hpieces
  obtain ⟨d, ds, hd⟩ := List.exists_cons_of_ne_nil hne
  simp only [parseOperands, hfilter, hd]
  rw [← hd, hpieces, mapM_parseWord_hexText]

/-! ### Requests -/

/-- A name, a blank and the operands are split at that blank, and both parts are read back. -/
theorem requestParts {name : String} (hname : ' ' ∉ name.toList) {ws : List Word} (hws : ws ≠ []) {text : String}
    (h : some (name ++ " " ++ operandsText ws) = some text) :
    String.ofList (text.toList.takeWhile (fun c => c != ' ')) = name ∧
      parseOperands (text.toList.dropWhile (fun c => c != ' ')) = some ws := by
  have hne : ∀ c ∈ name.toList, (c != ' ') = true := fun c hc => bne_iff_ne.2 fun e => hname (e ▸ hc)
  have htext : text.toList = name.toList ++ ' ' :: (operandsText ws).toList := by
    rw [← Option.some.inj h]
    simp [String.toList_append]
  rw [htext, List.takeWhile_append_of_pos hne, List.dropWhile_append_of_pos hne]
  exact ⟨by simp, parseOperands_operandsText hws⟩

/-- Settles O58: the name has no blank, so the text is split after it, and every operand is read back. -/
theorem requestTextReadsBack : Obligations.RequestTextReadsBack := by
  intro i text h
  cases i with
  | init | eraseAll => cases h; decide
  | program start length buf =>
    obtain ⟨hname, hops⟩ :=
      requestParts (name := "PROGRAM") (by decide) (List.cons_ne_nil start [length, buf]) h
    unfold parseRequest
    dsimp only
    rw [hname, hops]; rfl
  | eraseRange start length =>
    obtain ⟨hname, hops⟩ :=
      requestParts (name := "ERASE_RANGE") (by decide) (List.cons_ne_nil start [length]) h
    unfold parseRequest
    dsimp only
    rw [hname, hops]; rfl
  | checksum start length seed =>
    obtain ⟨hname, hops⟩ :=
      requestParts (name := "CHECKSUM") (by decide) (List.cons_ne_nil start [length, seed]) h
    unfold parseRequest
    dsimp only
    rw [hname, hops]; rfl
  | verify start length seed buf =>
    obtain ⟨hname, hops⟩ :=
      requestParts (name := "VERIFY") (by decide) (List.cons_ne_nil start [length, seed, buf]) h
    unfold parseRequest
    dsimp only
    rw [hname, hops]; rfl
  | resetEnable | reset | writeEnable | readStatus | pageProgram | sectorErase | chipErase | quadRead | enter4Byte
  | send | poll | map | abort => cases h


/-! ## The elementary command, call by call (R92, R135, R136) -/

section
variable {s : State} (h : s.estate = .idle) (k : Kind) (a : Nat) (payload : List Byte) (t : Word)
include h

/-! ESTATE and the changes of it logged so far, after each call (R136). -/

theorem wcmdSent_estate : (wcmdSent s).estate = .idle ∧ (wcmdSent s).esLog = s.esLog := ⟨h, rfl⟩

theorem wcmdEnabled_estate :
    (wcmdEnabled s).estate = .welPending ∧ (wcmdEnabled s).esLog = s.esLog ++ wcmdTransitions.take 1 := by
  obtain ⟨he, hl⟩ := wcmdSent_estate h
  simp [wcmdEnabled, setEState_esLog, he, hl, wcmdTransitions]

theorem wcmdIssued_estate : (wcmdIssued k a payload s).estate = .cmdIssued ∧
    (wcmdIssued k a payload s).esLog = s.esLog ++ wcmdTransitions.take 2 := by
  obtain ⟨he, hl⟩ := wcmdEnabled_estate h
  simp [wcmdIssued, setEState_esLog, he, hl, wcmdTransitions]

theorem wcmdDone_estate : (wcmdDone k a payload t s).estate = .busyPolling ∧
    (wcmdDone k a payload t s).esLog = s.esLog ++ wcmdTransitions.take 3 := by
  obtain ⟨he, hl⟩ := wcmdIssued_estate h k a payload
  simp [wcmdDone, setEState_esLog, he, hl, wcmdTransitions]

end

theorem wcmdDone_rsp (k : Kind) (a : Nat) (payload : List Byte) (t : Word) (s : State) :
    (wcmdDone k a payload t s).rsp = s.rsp := by
  simp [wcmdDone, wcmdIssued, wcmdEnabled, wcmdSent]

/-- `u` is what WCMD leaves when call `n` of `full`, the event `e`, is answered `r`, not OK (R135 to R137). -/
def StoppedAt (s : State) (full : List Event) (ea : Word) (u : State) (n : Nat) (e : Event) (r : Answer) : Prop :=
  full[n]? = some e ∧ r ≠ .ok ∧ (r = .timedOut → n = 1 ∨ n = 3) ∧
    u.trace = s.trace ++ full.take n ++ [withAnswer e r] ∧ u.estate = .idle ∧ u.curOp = 0 ∧
    u.esLog = s.esLog ++ wcmdTransitions.take n ++
      [((wcmdTransitions.map Prod.fst).getD n .idle, .failed), (.failed, .idle)] ∧
    u.rsp = { status := statusOf r, errAddr := ea, checksum := 0, mmValid := false, mmAddr := 0 }

/-- A failure entered right after call `n`, with the ESTATE that WCMD has reached there. -/
theorem stoppedAt_failLast {s u : State} {full : List Event} {n : Nat} {e : Event} (ea : Word)
    (he : full[n]? = some e) (hr : u.seq.ret ≠ .ok) (ht : u.seq.ret = .timedOut → n = 1 ∨ n = 3)
    (htrace : u.trace = s.trace ++ full.take n ++ [withAnswer e u.seq.ret])
    (hes : u.estate = (wcmdTransitions.map Prod.fst).getD n .idle) (hne : u.estate ≠ .failed)
    (hlog : u.esLog = s.esLog ++ wcmdTransitions.take n) :
    StoppedAt s full ea (failLast ea u) n e u.seq.ret := by
  refine ⟨he, hr, ht, ?_, fail_estate _ _ _, fail_curOp _ _ _, ?_, fail_rsp _ _ _⟩
  · rw [failLast, fail_trace, htrace]
  · rw [failLast, fail_esLog, if_neg hne, hlog, hes, List.append_assoc]; rfl

/-- Settles O19: one case per call of `wcmd_cases`, with the trace and the ESTATE log that the calls before it left. -/
theorem elementaryCommandCalls : Obligations.ElementaryCommandCalls := by
  intro k a payload tmo ea s h
  obtain ⟨h1, e⟩ | ⟨h1, h2, e⟩ | ⟨h1, h2, h3, e⟩ | ⟨h1, h2, h3, h4, e⟩ | ⟨h1, h2, h3, h4, e⟩ :=
    wcmd_cases k a payload tmo ea s
  · obtain ⟨he, hl⟩ := wcmdSent_estate h
    refine .inr ⟨_, 0, _, _, e, stoppedAt_failLast ea rfl h1 (fun ht => absurd ht (callAnswer_ne_timedOut _)) ?_ he
      (by simp [he]) (by simpa using hl)⟩
    simp [wcmdSent_trace, withAnswer]
  · obtain ⟨he, hl⟩ := wcmdEnabled_estate h
    refine .inr ⟨_, 1, _, _, e, stoppedAt_failLast ea rfl h2 (fun _ => .inl rfl) ?_ he (by simp [he]) hl⟩
    simp [wcmdSent_trace, wcmdEnabled_trace, h1, wcmdTrace, withAnswer]
  · obtain ⟨he, hl⟩ := wcmdIssued_estate h k a payload
    refine .inr ⟨_, 2, _, _, e, stoppedAt_failLast ea rfl h3 (fun ht => absurd ht (callAnswer_ne_timedOut _)) ?_ he
      (by simp [he]) hl⟩
    simp [wcmdSent_trace, wcmdEnabled_trace, wcmdIssued_trace, h1, h2, wcmdTrace, withAnswer]
  · obtain ⟨he, hl⟩ := wcmdDone_estate h k a payload tmo
    refine .inr ⟨_, 3, _, _, e, stoppedAt_failLast ea rfl h4 (fun _ => .inr rfl) ?_ he (by simp [he]) hl⟩
    simp [wcmdSent_trace, wcmdEnabled_trace, wcmdIssued_trace, wcmdDone_trace, h1, h2, h3, wcmdTrace, withAnswer]
  · obtain ⟨he, hl⟩ := wcmdDone_estate h k a payload tmo
    refine .inl ⟨_, e, ?_, setEState_estate _ _, ?_, ?_⟩
    · simp [wcmdSent_trace, wcmdEnabled_trace, wcmdIssued_trace, wcmdDone_trace, h1, h2, h3, h4, wcmdTrace]
    · rw [setEState_esLog, he, hl]; simp [wcmdTransitions]
    · rw [setEState_rsp, wcmdDone_rsp]


/-! ## The elementary command is its lines (R92) -/

/-- `u` with the ESTATE of `s` and its log, which no line writes. -/
def withEStateOf (s u : State) : State := { u with estate := s.estate, esLog := s.esLog }

@[simp] theorem withEStateOf_setEState (s : State) (e : EState) (u : State) :
    withEStateOf s (setEState e u) = withEStateOf s u := by
  obtain ⟨-, h⟩ | ⟨-, h⟩ := setEState_cases e u <;> rw [h]
  rfl

@[simp] theorem withEStateOf_self (s : State) : withEStateOf s s = s := rfl
@[simp] theorem withEStateOf_encodeOp (s : State) (k : Kind) (a : Nat) (p : List Byte) (u : State) :
    withEStateOf s (encodeOp k a p u) = encodeOp k a p (withEStateOf s u) := rfl
@[simp] theorem withEStateOf_sendOp (s u : State) : withEStateOf s (sendOp u) = sendOp (withEStateOf s u) := rfl
@[simp] theorem withEStateOf_pollOp (s : State) (spec : PollSpec) (u : State) :
    withEStateOf s (pollOp spec u) = pollOp spec (withEStateOf s u) := rfl

/-- The four calls of WCMD with no change of ESTATE between them. -/
def wcmdWithoutEState (k : Kind) (a : Nat) (payload : List Byte) (t : Word) (s : State) : State :=
  pollOp (wipWait s.cfg.cat t) (sendOp (encodeOp k a payload
    (pollOp (welWait s.cfg.cat) (sendOp (encodeOp .writeEnable 0 [] s)))))

theorem runLine_of_wf {s : State} (hw : s.cfg.wf = true) (body : State → State) :
    runLine none body s = .next (body s) := runLine_eq_next.2 ⟨hw, rfl, rfl⟩

/-- A kind and the operands of its line encode alike, whatever operands its kind does not take (R101). -/
theorem exec_cmdInstr {k : Kind} (hk : changesFlash k = true) (a : Word) (payload : List Byte) {s : State}
    (hw : s.cfg.wf = true) : exec (cmdInstr k a payload) s = .next (encodeOp k a.toNat payload s) := by
  cases k with
  | pageProgram => exact (exec_pageProgram a payload s).trans (runLine_of_wf hw _)
  | sectorErase => exact (exec_sectorErase a s).trans (runLine_of_wf hw _)
  | chipErase => exact (exec_chipErase s).trans (runLine_of_wf hw _)
  | resetEnable | reset | writeEnable | readStatus | quadRead | enter4Byte => cases hk

theorem exec_send_of_indirect {s : State} (hw : s.cfg.wf = true) (hm : s.mode = .indirect)
    (hd : ddirField s.seq.cmd.w0 ≠ 1) : exec .send s = .next (sendOp s) := by
  have hr : sendRefusal s = none := by simpa [sendRefusal, indirectOnly, hm] using hd
  rw [exec_send, hr, runLine_of_wf hw]

theorem exec_poll_of_indirect (spec : PollSpec) {s : State} (hw : s.cfg.wf = true) (hm : s.mode = .indirect) :
    exec (.poll spec) s = .next (pollOp spec s) := by
  have hr : indirectOnly s = none := by simp [indirectOnly, hm]
  rw [exec_poll, hr, runLine_of_wf hw]

theorem runLines_cons {i : Instr} {s t : State} (h : exec i s = .next t) (is : List Instr) :
    runLines (i :: is) s = runLines is t := by
  rw [runLines, h]

/-- An encoding line and the SEND line after it, in indirect mode. -/
theorem runLines_encode_send {i : Instr} {k : Kind} {a : Nat} {payload : List Byte} {s : State} (hw : s.cfg.wf = true)
    (hm : s.mode = .indirect) (hk : dataDir k ≠ 1) (h : exec i s = .next (encodeOp k a payload s)) (is : List Instr) :
    runLines (i :: .send :: is) s = runLines is (sendOp (encodeOp k a payload s)) := by
  have hd : ddirField (encodeOp k a payload s).seq.cmd.w0 ≠ 1 := by
    rwa [show ddirField (encodeOp k a payload s).seq.cmd.w0 = dataDir k from ddirField_encodeWord0 _ k]
  rw [runLines_cons h, runLines_cons (exec_send_of_indirect (s := encodeOp k a payload s) hw hm hd)]

theorem dataDir_ne_one_of_changesFlash {k : Kind} (hk : changesFlash k = true) : dataDir k ≠ 1 := by
  cases k with
  | pageProgram | sectorErase | chipErase => decide
  | resetEnable | reset | writeEnable | readStatus | quadRead | enter4Byte => cases hk

/-- In indirect mode the six lines run, whatever the answers. -/
theorem runLines_wcmdLines {k : Kind} (hk : changesFlash k = true) (a : Word) (payload : List Byte) (t : Word)
    {s : State} (hw : s.cfg.wf = true) (hm : s.mode = .indirect) :
    runLines (wcmdLines s.cfg.cat k a payload t) s = .next (wcmdWithoutEState k a.toNat payload t s) := by
  have hdir : dataDir k ≠ 1 := dataDir_ne_one_of_changesFlash hk
  have hwrite : exec .writeEnable s = .next (encodeOp .writeEnable 0 [] s) :=
    (exec_writeEnable s).trans (runLine_of_wf hw _)
  rw [wcmdLines, runLines_encode_send hw hm (by decide) hwrite,
    runLines_cons (exec_poll_of_indirect _ (by simpa using hw) (by simpa using hm)),
    runLines_encode_send (by simpa using hw) (by simpa using hm) hdir (exec_cmdInstr hk a payload (by simpa using hw)),
    runLines_cons (exec_poll_of_indirect _ (by simpa using hw) (by simpa using hm))]
  rfl

/-- What the lines leave is what WCMD's four calls leave, but for ESTATE. -/
theorem withEStateOf_wcmdDone (k : Kind) (a : Nat) (payload : List Byte) (t : Word) (s : State) :
    withEStateOf s (wcmdDone k a payload t s) = wcmdWithoutEState k a payload t s := by
  simp [wcmdDone, wcmdIssued, wcmdEnabled, wcmdSent, wcmdWithoutEState]

/-- Settles O20: the four calls answered OK, WCMD goes on from what its lines leave. -/
theorem elementaryCommandIsItsLines : Obligations.ElementaryCommandIsItsLines := by
  intro k a payload tmo ea s hk hw hm h
  rw [← List.append_nil (wcmdCalls s.cfg.cat tmo)] at h
  obtain ⟨hok, -⟩ := wcmdOk_of_obliges h k a.toNat payload
  refine ⟨_, hok.eq_going ea, ?_⟩
  rw [runLines_wcmdLines hk a payload tmo hw hm, ← withEStateOf_wcmdDone, ← withEStateOf_setEState s .idle]
  rfl


/-! ## Responses (R80, R81) -/

/-- Word 0 of a response: STATUS, MM_VALID in bit 8, and no other bit. -/
def responseWord0 (st : Status) (mm : Bool) : Word :=
  (statusCode st).setWidth 32 ||| ((BitVec.ofBool mm).setWidth 32 <<< 8)

theorem responseWord0_layout (st : Status) (mm : Bool) :
    (responseWord0 st mm).toNat % 16 = (statusCode st).toNat ∧ (responseWord0 st mm).toNat / 16 % 16 = 0 ∧
      (responseWord0 st mm).toNat / 512 = 0 ∧ (responseWord0 st mm).getLsbD 8 = mm := by
  cases st <;> cases mm <;> decide

/-- The fields of a response that are not valid for it are 0 (R80). -/
structure ValidFor (i : Instr) (r : Response) : Prop where
  errAddr : r.status ≠ .busError → r.status ≠ .timedOut → r.errAddr = 0
  notOk : r.status ≠ .ok → r.checksum = 0 ∧ r.mmValid = false
  checksum : (∀ start length seed, i ≠ .checksum start length seed) →
    (∀ start length seed buf, i ≠ .verify start length seed buf) → r.checksum = 0
  mmValid : (∀ start length seed buf, i ≠ .verify start length seed buf) → r.mmValid = false
  mmAddr : r.mmValid = false → r.mmAddr = 0

theorem validFor_okResponse (i : Instr) : ValidFor i okResponse :=
  ⟨fun _ _ => rfl, fun _ => ⟨rfl, rfl⟩, fun _ _ => rfl, fun _ => rfl, fun _ => rfl⟩

theorem validFor_fail (i : Instr) {k : Status} {a : Word} (h : k = .busError ∨ k = .timedOut ∨ a = 0) (s : State) :
    ValidFor i (fail k a s).rsp := by
  rw [fail_rsp]
  exact ⟨fun hb ht => (h.resolve_left hb).resolve_left ht, fun _ => ⟨rfl, rfl⟩, fun _ _ => rfl, fun _ => rfl,
    fun _ => rfl⟩

theorem validFor_checksum (start length seed ck : Word) :
    ValidFor (.checksum start length seed) { okResponse with checksum := ck } :=
  ⟨fun _ _ => rfl, fun hok => absurd rfl hok, fun hno _ => absurd rfl (hno start length seed), fun _ => rfl,
    fun _ => rfl⟩

theorem validFor_verify (start length seed buf ck a : Word) (mm : Bool) (ha : mm = false → a = 0) :
    ValidFor (.verify start length seed buf) { okResponse with checksum := ck, mmValid := mm, mmAddr := a } :=
  ⟨fun _ _ => rfl, fun hok => absurd rfl hok, fun _ hno => absurd rfl (hno start length seed buf),
    fun hno => absurd rfl (hno start length seed buf), ha⟩

/-- A run that has ended has emitted a response that is valid for the request. -/
def Run.Reports (i : Instr) : Run → Prop
  | .going _ => True
  | .ended s => ValidFor i s.rsp

section
variable (i : Instr)

theorem reports_orFail (ea : Word) (s : State) : (orFail ea s).Reports i := by
  obtain ⟨-, e⟩ | ⟨hr, e⟩ := orFail_cases ea s <;> rw [e]
  · trivial
  · refine validFor_fail i ?_ s
    cases h : s.seq.ret with
    | ok => exact absurd h hr
    | busError => exact .inl rfl
    | timedOut => exact .inr (.inl rfl)

theorem reports_orInitError (s : State) : (orInitError s).Reports i := by
  obtain ⟨-, e⟩ | ⟨-, e⟩ := orInitError_cases s <;> rw [e]
  · trivial
  · exact validFor_fail i (.inr (.inr rfl)) s

variable {i}

theorem Run.Reports.andThen {r : Run} {f : State → Run} (hr : r.Reports i) (hf : ∀ t, (f t).Reports i) :
    (andThen r f).Reports i := by
  cases r with
  | going t => exact hf t
  | ended t => exact hr

theorem Run.Reports.finish {r : Run} {f : State → State} (hr : r.Reports i) (hf : ∀ t, ValidFor i (f t).rsp) :
    ValidFor i (finish r f).rsp := by
  cases r with
  | going t => exact hf t
  | ended t => exact hr

theorem reports_ite (c : Prop) [Decidable c] {r : Run} (s : State) (hr : r.Reports i) :
    (if c then r else .going s).Reports i := by
  split_ifs
  · exact hr
  · trivial

theorem validFor_respond {r : Response} (h : ValidFor i r) (s : State) : ValidFor i (respond r s).rsp := by
  rwa [respond_rsp]

theorem reports_wcmd (k : Kind) (a : Nat) (payload : List Byte) (t ea : Word) (s : State) :
    (wcmd k a payload t ea s).Reports i :=
  (reports_orFail i _ _).andThen fun _ => (reports_orFail i _ _).andThen fun _ =>
  (reports_orFail i _ _).andThen fun _ => (reports_orFail i _ _).andThen fun _ => trivial

theorem reports_ensureIndirect (ea : Word) (s : State) : (ensureIndirect ea s).Reports i :=
  reports_ite _ _ (reports_orFail i _ _)

theorem reports_ensureMapped (ea : Word) (s : State) : (ensureMapped ea s).Reports i :=
  reports_ite _ _ (reports_orFail i _ _)

theorem reports_initLines (s : State) : (initLines s).Reports i :=
  (reports_ite _ _ (reports_orInitError i _)).andThen fun _ =>
  (reports_ite _ _ (reports_orInitError i _)).andThen fun _ =>
  (reports_orInitError i _).andThen fun _ => (reports_orInitError i _).andThen fun _ =>
  (reports_ite _ _ (reports_orInitError i _)).andThen fun _ => reports_ite _ _ (reports_orInitError i _)

theorem reports_programChunk (start buf : Word) (s : State) : (programChunk start buf s).Reports i :=
  (reports_wcmd _ _ _ _ _ _).andThen fun _ => trivial

theorem reports_programLoop (start buf : Word) (n : Nat) (s : State) : (programLoop start buf n s).Reports i := by
  induction n generalizing s with
  | zero => trivial
  | succ n ih =>
    rw [programLoop]
    split_ifs
    · trivial
    · exact (reports_programChunk start buf s).andThen ih

theorem reports_eraseSector (s : State) : (eraseSector s).Reports i :=
  (reports_wcmd _ _ _ _ _ _).andThen fun _ => trivial

theorem reports_eraseLoop (n : Nat) (s : State) : (eraseLoop n s).Reports i := by
  induction n generalizing s with
  | zero => trivial
  | succ n ih => exact reports_ite _ _ ((reports_eraseSector s).andThen ih)

theorem validFor_initBody (s : State) : ValidFor i (initBody s).rsp :=
  (reports_initLines _).finish fun _ => validFor_respond (validFor_okResponse i) _

theorem validFor_programBody (start length buf : Word) (s : State) :
    ValidFor i (programBody start length buf s).rsp := by
  unfold programBody
  split_ifs
  · exact validFor_respond (validFor_okResponse i) s
  · exact ((reports_ensureIndirect _ _).andThen fun _ => reports_programLoop _ _ _ _).finish
      (validFor_respond (validFor_okResponse i))

theorem validFor_eraseRangeBody (start length : Word) (s : State) : ValidFor i (eraseRangeBody start length s).rsp :=
  ((reports_ensureIndirect _ _).andThen fun _ => reports_eraseLoop _ _).finish
    (validFor_respond (validFor_okResponse i))

theorem validFor_eraseAllBody (s : State) : ValidFor i (eraseAllBody s).rsp :=
  ((reports_ensureIndirect _ _).andThen fun _ => reports_wcmd _ _ _ _ _ _).finish
    (validFor_respond (validFor_okResponse i))

end

theorem validFor_checksumBody (start length seed : Word) (s : State) :
    ValidFor (.checksum start length seed) (checksumBody start length seed s).rsp := by
  unfold checksumBody
  split_ifs
  · exact validFor_respond (validFor_checksum start length seed seed) s
  · exact (reports_ensureMapped _ _).finish fun _ => validFor_respond (validFor_checksum start length seed _) _

theorem validFor_verifyLoop (start length seed buf ck : Word) (n : Nat) (s : State) :
    ValidFor (.verify start length seed buf) (verifyLoop start buf ck n s).rsp := by
  induction n generalizing s with
  | zero => exact validFor_respond (validFor_verify _ _ _ _ ck 0 false fun _ => rfl) s
  | succ n ih =>
    unfold verifyLoop
    dsimp only
    split_ifs
    · exact ih _
    · exact validFor_respond (validFor_verify _ _ _ _ ck _ true nofun) _

theorem validFor_verifyBody (start length seed buf : Word) (s : State) :
    ValidFor (.verify start length seed buf) (verifyBody start length seed buf s).rsp := by
  unfold verifyBody
  split_ifs
  · exact validFor_respond (validFor_verify _ _ _ _ seed 0 false fun _ => rfl) s
  · exact (reports_ensureMapped _ _).finish fun _ => validFor_verifyLoop _ _ _ _ _ _ _

theorem validFor_runRequest {i : Instr} {op : BitVec 4} {needsInit : Bool} {extent : Nat} {body : State → State}
    {s t : State} (hb : ∀ s, ValidFor i (body s).rsp) (h : runRequest op needsInit extent body s = .next t) :
    ValidFor i t.rsp := by
  obtain ⟨-, rfl⟩ := runRequest_eq_next.1 h
  exact hb _

theorem exec_request_validFor {i : Instr} {s t : State} (hi : isRequest i = true) (h : exec i s = .next t) :
    ValidFor i t.rsp := by
  cases i with
  | init => exact validFor_runRequest validFor_initBody h
  | program start length buf => exact validFor_runRequest (validFor_programBody start length buf) h
  | eraseRange start length => exact validFor_runRequest (validFor_eraseRangeBody start length) h
  | eraseAll => exact validFor_runRequest validFor_eraseAllBody h
  | checksum start length seed => exact validFor_runRequest (validFor_checksumBody start length seed) h
  | verify start length seed buf => exact validFor_runRequest (validFor_verifyBody start length seed buf) h
  | resetEnable | reset | writeEnable | readStatus | pageProgram | sectorErase | chipErase | quadRead | enter4Byte
  | send | poll | map | abort => cases hi

/-- Settles O8: the two fields of word 0 do not overlap, and every end of a request reports a valid response. -/
theorem responseWordsLayout : Obligations.ResponseWordsLayout := by
  refine ⟨fun r => ?_, fun i s t hi h => ?_⟩
  · obtain ⟨hstatus, hzero, hhigh, hmm⟩ := responseWord0_layout r.status r.mmValid
    refine ⟨responseWord0 r.status r.mmValid, rfl, hstatus.trans ?_, hzero, hhigh, hmm⟩
    cases r.status <;> rfl
  · obtain ⟨h1, h2, h3, h4, h5⟩ := exec_request_validFor hi h
    exact ⟨h1, h2, h3, h4, h5⟩

end Sys2Proof.Machine
end

section
/-! PROOFS of the family 40_command_encoder: the phases of an encoded command (R101 to R104), the nine bus commands
(R105 to R113), and the calls SEND, MAP and ABORT (R114, R116, R117). -/

namespace Sys2Proof.Machine

/-! ## The phases of an encoded command (R101, R104)

One pair of lemmas per phase: what `Encode` writes where R101 gives the kind that phase, and that it writes 0 where
R101 gives it none. -/

section
variable {cfg : Cfg} {k : Kind} (cat : Catalog) (a : Nat) (payload : List Byte)

/-- The sizes and counts that a well-formed configuration lets the command word hold (R10, R100). -/
theorem entry_bounds_of_wf (hw : cfg.wf = true) (k : Kind) :
    (cfg.cat.entry k).dummyCycles ≤ 31 ∧ (cfg.cat.entry k).altSize ≤ 4 := by
  have hk : (entryOk (cfg.cat.entry k) && phasesOk cfg.cat k && presenceOk cfg.cat k) = true :=
    List.all_eq_true.1 (Bool.and_eq_true_iff.1 hw).2 k (mem_allKinds k)
  simp only [entryOk, Bool.and_eq_true, decide_eq_true_eq] at hk
  obtain ⟨⟨⟨⟨-, hdummy⟩, halt⟩, -⟩, -⟩ := hk
  exact ⟨hdummy, halt⟩

theorem encodeCmd_instructionPhase (k : Kind) :
    opcodeField (encodeCmd cat k a payload).w0 = (cat.entry k).opcode ∧
      imodeField (encodeCmd cat k a payload).w0 = lineCode (cat.entry k).ilines ∧
      dtrField (encodeCmd cat k a payload).w0 = BitVec.ofBool (cat.entry k).dtr ∧
      zeroField (encodeCmd cat k a payload).w0 = 0 := by
  simp [encodeCmd, imodeOf]

theorem encodeCmd_addressPhase (hw : cfg.wf = true) (hk : hasAddr k = true) :
    admodeField (encodeCmd cfg.cat k a payload).w0 = lineCode (cfg.cat.entry k).alines ∧
      (adsizeField (encodeCmd cfg.cat k a payload).w0).toNat = cfg.cat.addressBytes - 1 ∧
      (encodeCmd cfg.cat k a payload).w1.toNat = a % 2 ^ (8 * cfg.cat.addressBytes) := by
  simp only [encodeCmd, fields_encodeWord0, admodeOf, adsizeOf, busAddress, hk, if_true, BitVec.toNat_ofNat, true_and]
  obtain hb | hb := (globals_of_wf hw).1 <;> rw [hb] <;> exact ⟨rfl, by omega⟩

theorem encodeCmd_no_addressPhase (hk : hasAddr k = false) :
    admodeField (encodeCmd cat k a payload).w0 = 0 ∧ adsizeField (encodeCmd cat k a payload).w0 = 0 ∧
      (encodeCmd cat k a payload).w1 = 0 := by
  simp [encodeCmd, admodeOf, adsizeOf, hk]

theorem encodeCmd_altPhase (hw : cfg.wf = true) (hk : hasAlt cfg.cat k = true) :
    abmodeField (encodeCmd cfg.cat k a payload).w0 = lineCode (cfg.cat.entry k).altLines ∧
      (absizeField (encodeCmd cfg.cat k a payload).w0).toNat = (cfg.cat.entry k).altSize - 1 ∧
      (encodeCmd cfg.cat k a payload).w2.toNat =
        (cfg.cat.entry k).altValue.toNat % 2 ^ (8 * (cfg.cat.entry k).altSize) := by
  have hsize := (entry_bounds_of_wf hw k).2
  have hvalue : (cfg.cat.entry k).altValue.toNat % 2 ^ (8 * (cfg.cat.entry k).altSize) < 2 ^ 32 :=
    (Nat.mod_le _ _).trans_lt (cfg.cat.entry k).altValue.isLt
  simp only [encodeCmd, fields_encodeWord0, abmodeOf, absizeOf, hk, if_true, BitVec.toNat_ofNat, true_and]
  exact ⟨Nat.mod_eq_of_lt (by omega), Nat.mod_eq_of_lt hvalue⟩

theorem encodeCmd_no_altPhase (hk : hasAlt cat k = false) :
    abmodeField (encodeCmd cat k a payload).w0 = 0 ∧ absizeField (encodeCmd cat k a payload).w0 = 0 ∧
      (encodeCmd cat k a payload).w2 = 0 := by
  simp [encodeCmd, abmodeOf, absizeOf, hk]

theorem encodeCmd_dummyPhase (hw : cfg.wf = true) (hk : hasDummy k = true) :
    (dcycField (encodeCmd cfg.cat k a payload).w0).toNat = (cfg.cat.entry k).dummyCycles := by
  have hcycles := (entry_bounds_of_wf hw k).1
  simp only [encodeCmd, fields_encodeWord0, dcycOf, hk, if_true, BitVec.toNat_ofNat]
  exact Nat.mod_eq_of_lt (by omega)

theorem encodeCmd_no_dummyPhase (hk : hasDummy k = false) : dcycField (encodeCmd cat k a payload).w0 = 0 := by
  simp [encodeCmd, dcycOf, hk]

theorem encodeCmd_dataPhase (hk : dataDir k ≠ 0) :
    dmodeField (encodeCmd cat k a payload).w0 = lineCode (cat.entry k).dlines ∧
      ddirField (encodeCmd cat k a payload).w0 = dataDir k := by
  simp only [encodeCmd, fields_encodeWord0, ddirField_encodeWord0, dmodeOf, hk, if_false, and_self]

theorem encodeCmd_no_dataPhase (hk : dataDir k = 0) :
    dmodeField (encodeCmd cat k a payload).w0 = 0 ∧ ddirField (encodeCmd cat k a payload).w0 = 0 ∧
      (encodeCmd cat k a payload).w3 = 0 ∧ (encodeCmd cat k a payload).payload = [] := by
  have hbytes : nbytesOf k payload = 0 := by
    cases k with
    | readStatus | pageProgram | quadRead => exact absurd hk (by decide)
    | resetEnable | reset | writeEnable | sectorErase | chipErase | enter4Byte => rfl
  simp [encodeCmd, ddirField_encodeWord0, dmodeOf, hk, hbytes]

end

/-- Settles O6: the address phase, and `2^24` bounds what three bytes leave of an offset. -/
theorem addressAssemblyTruncates : Obligations.AddressAssemblyTruncates := by
  intro cfg k a payload hw hk
  obtain ⟨-, hsize, haddr⟩ := encodeCmd_addressPhase a payload hw hk
  refine ⟨haddr, hsize, fun hb => ?_⟩
  rw [haddr, hb]
  exact Nat.mod_lt _ (by decide)

/-! ## The bus commands (R105 to R113) -/

/-- An instruction-only kind has no phase after its instruction (R101). -/
theorem phases_of_instructionOnly {k : Kind} (hk : k ∈ [Kind.resetEnable, .reset, .writeEnable, .chipErase, .enter4Byte])
    (cat : Catalog) : hasAddr k = false ∧ hasAlt cat k = false ∧ hasDummy k = false ∧ dataDir k = 0 := by
  simp only [List.mem_cons, List.not_mem_nil, or_false] at hk
  obtain rfl | rfl | rfl | rfl | rfl := hk <;> exact ⟨rfl, rfl, rfl, rfl⟩

/-- The line of an instruction-only command encodes its kind alone. -/
theorem exec_instructionOnly {p : Instr × Kind}
    (hp : p ∈ [(Instr.resetEnable, Kind.resetEnable), (.reset, .reset), (.writeEnable, .writeEnable),
      (.chipErase, .chipErase), (.enter4Byte, .enter4Byte)]) {s : State} (hw : s.cfg.wf = true) :
    exec p.1 s = .next (encodeOp p.2 0 [] s) := by
  simp only [List.mem_cons, List.not_mem_nil, or_false] at hp
  obtain rfl | rfl | rfl | rfl | rfl := hp
  · exact (exec_resetEnable s).trans (runLine_of_wf hw _)
  · exact (exec_reset s).trans (runLine_of_wf hw _)
  · exact (exec_writeEnable s).trans (runLine_of_wf hw _)
  · exact (exec_chipErase s).trans (runLine_of_wf hw _)
  · exact (exec_enter4Byte s).trans (runLine_of_wf hw _)

/-- Settles O9: R101 gives the five kinds the instruction phase alone. -/
theorem instructionOnlyCommandsEncode : Obligations.InstructionOnlyCommandsEncode := by
  intro s hw p hp
  obtain ⟨haddr, halt, hdummy, hdata⟩ := phases_of_instructionOnly (List.mem_map_of_mem (f := Prod.snd) hp) s.cfg.cat
  obtain ⟨hop, himode, hdtr, hzero⟩ := encodeCmd_instructionPhase s.cfg.cat 0 [] p.2
  obtain ⟨hadmode, hadsize, hw1⟩ := encodeCmd_no_addressPhase s.cfg.cat 0 [] haddr
  obtain ⟨habmode, habsize, hw2⟩ := encodeCmd_no_altPhase s.cfg.cat 0 [] halt
  obtain ⟨hdmode, hddir, hw3, hpayload⟩ := encodeCmd_no_dataPhase s.cfg.cat 0 [] hdata
  exact ⟨_, exec_instructionOnly hp hw, rfl, hop, himode, hadmode, hadsize, habmode, habsize,
    encodeCmd_no_dummyPhase s.cfg.cat 0 [] hdummy, hdmode, hddir, hdtr, hzero, hw1, hw2, hw3, hpayload⟩

/-- QUAD_READ has alternate bytes exactly where the catalog gives it some (R112). -/
theorem hasAlt_quadRead (cat : Catalog) : hasAlt cat .quadRead = true ↔ 1 ≤ cat.quadRead.altSize := decide_eq_true_iff

/-- Settles O10: READ_STATUS has dummy and data phases; QUAD_READ these, an address 0, and alternate bytes by cases on
`alt_size`. -/
theorem readCommandsEncode : Obligations.ReadCommandsEncode := by
  refine fun s hw => ⟨?_, ?_⟩
  · obtain ⟨hop, himode, hdtr, -⟩ := encodeCmd_instructionPhase s.cfg.cat 0 [] .readStatus
    obtain ⟨hadmode, hadsize, hw1⟩ := encodeCmd_no_addressPhase (k := .readStatus) s.cfg.cat 0 [] rfl
    obtain ⟨habmode, habsize, hw2⟩ := encodeCmd_no_altPhase (k := .readStatus) s.cfg.cat 0 [] rfl
    obtain ⟨hdmode, hddir⟩ := encodeCmd_dataPhase (k := .readStatus) s.cfg.cat 0 [] (by decide)
    exact ⟨_, (exec_readStatus s).trans (runLine_of_wf hw _), rfl, hop, himode, hadmode, hadsize, habmode, habsize,
      encodeCmd_dummyPhase 0 [] hw rfl, hdmode, hddir, hdtr, hw1, hw2, rfl, rfl⟩
  · obtain ⟨hop, himode, hdtr, -⟩ := encodeCmd_instructionPhase s.cfg.cat 0 [] .quadRead
    obtain ⟨hadmode, hadsize, hw1⟩ := encodeCmd_addressPhase (k := .quadRead) 0 [] hw rfl
    obtain ⟨hdmode, hddir⟩ := encodeCmd_dataPhase (k := .quadRead) s.cfg.cat 0 [] (by decide)
    refine ⟨_, (exec_quadRead s).trans (runLine_of_wf hw _), rfl, hop, himode, hadmode, hadsize, fun hno => ?_,
      fun halt => ?_, encodeCmd_dummyPhase 0 [] hw rfl, hdmode, hddir, hdtr,
      BitVec.eq_of_toNat_eq (hw1.trans (Nat.zero_mod _)), rfl, rfl⟩
    · exact encodeCmd_no_altPhase s.cfg.cat 0 [] (Bool.eq_false_iff.2 (mt (hasAlt_quadRead _).1 (by omega)))
    · exact encodeCmd_altPhase 0 [] hw ((hasAlt_quadRead _).2 halt)

/-- Settles O11: both kinds have an address phase, and PAGE_PROGRAM alone a data phase. -/
theorem addressedCommandsEncode : Obligations.AddressedCommandsEncode := by
  refine fun s offset payload hw => ⟨?_, ?_⟩
  · obtain ⟨hop, himode, hdtr, -⟩ := encodeCmd_instructionPhase s.cfg.cat offset.toNat payload .pageProgram
    obtain ⟨hadmode, hadsize, hw1⟩ := encodeCmd_addressPhase (k := .pageProgram) offset.toNat payload hw rfl
    obtain ⟨habmode, habsize, hw2⟩ := encodeCmd_no_altPhase (k := .pageProgram) s.cfg.cat offset.toNat payload rfl
    obtain ⟨hdmode, hddir⟩ := encodeCmd_dataPhase (k := .pageProgram) s.cfg.cat offset.toNat payload (by decide)
    exact ⟨_, exec_cmdInstr (k := .pageProgram) rfl offset payload hw, rfl, hop, himode, hadmode, hadsize, habmode,
      habsize, encodeCmd_no_dummyPhase s.cfg.cat _ _ rfl, hdmode, hddir, hdtr, hw1, hw2, rfl, rfl⟩
  · obtain ⟨hop, himode, hdtr, -⟩ := encodeCmd_instructionPhase s.cfg.cat offset.toNat [] .sectorErase
    obtain ⟨hadmode, hadsize, hw1⟩ := encodeCmd_addressPhase (k := .sectorErase) offset.toNat [] hw rfl
    obtain ⟨habmode, habsize, hw2⟩ := encodeCmd_no_altPhase (k := .sectorErase) s.cfg.cat offset.toNat [] rfl
    obtain ⟨hdmode, hddir, hw3, hpayload⟩ := encodeCmd_no_dataPhase (k := .sectorErase) s.cfg.cat offset.toNat [] rfl
    exact ⟨_, (exec_sectorErase offset s).trans (runLine_of_wf hw _), rfl, hop, himode, hadmode, hadsize, habmode,
      habsize, encodeCmd_no_dummyPhase s.cfg.cat _ _ rfl, hdmode, hddir, hdtr, hw1, hw2, hw3, hpayload⟩

/-! ## SEND, MAP and ABORT (R114, R116, R117) -/

/-- A call that is no poll answers OK or BUS_ERROR (R13). -/
theorem callAnswer_ok_or_busError (x : Draw) : callAnswer x = .ok ∨ callAnswer x = .busError := by
  unfold callAnswer
  split
  · exact .inr rfl
  · exact .inl rfl

/-- It answers OK where the script's next draw has no BUS_ERROR. -/
theorem callAnswer_nextDraw_eq_ok {d : Device} {x : Draw} {xs : List Draw} (h : d.script = x :: xs) :
    callAnswer (nextDraw d) = .ok ↔ x.busErrorAfter = none := by
  rw [nextDraw_cons d x xs h, callAnswer_eq_ok]

/-- MODE and the controller follow a toggle call answered OK (R38, R181, R182). -/
theorem toggle_of_ok {r : Answer} (h : r = .ok) (m target : Mode) (d : Device) :
    (if r = .ok then target else m) = target ∧ ctrlAfter r target d = target := ⟨if_pos h, if_pos h⟩

/-- MODE keeps its value when the toggle call is answered BUS_ERROR. -/
theorem toggle_of_busError {r : Answer} (h : r = .busError) (m target : Mode) :
    (if r = .ok then target else m) = m := if_neg (by simp [h])

/-- Settles O12: SEND is `sendOp`, and the device changes no byte outside the command's span. -/
theorem sendCompletes : Obligations.SendCompletes := by
  intro s hw hm hd
  refine ⟨sendOp s, callAnswer (nextDraw s.dev), exec_send_of_indirect hw hm hd, callAnswer_ok_or_busError _,
    fun _ _ => callAnswer_nextDraw_eq_ok, rfl, by simp, fun hk a => ?_, fun a hu hx => ?_⟩
  · exact flashByte_deviceSend_of_none (commandRuns_of_no_change hk s.cfg) _ s.dev a
  · exact (flashByte_deviceSend_of_uncovered _ hu fun runs => hx _ _ runs (List.mem_singleton.2 rfl)).1

/-- Settles O17: MAP is `mapOp`, which only disturbs the device. -/
theorem mapCompletes : Obligations.MapCompletes := fun s hw =>
  ⟨mapOp s, callAnswer (nextDraw s.dev), (exec_map s).trans (runLine_of_wf hw _), callAnswer_ok_or_busError _,
    fun _ _ => callAnswer_nextDraw_eq_ok, fun h => toggle_of_ok h s.mode .mapped s.dev,
    fun h => toggle_of_busError h s.mode .mapped, rfl, flashByte_disturb s.dev⟩

/-- Settles O18: ABORT is `abortOp`, which leaves the device's contents alone. -/
theorem abortCompletes : Obligations.AbortCompletes := fun s hw =>
  ⟨abortOp s, callAnswer (nextDraw s.dev), (exec_abort s).trans (runLine_of_wf hw _), callAnswer_ok_or_busError _,
    fun _ _ => callAnswer_nextDraw_eq_ok, fun h => toggle_of_ok h s.mode .indirect s.dev,
    fun h => toggle_of_busError h s.mode .indirect, rfl⟩

end Sys2Proof.Machine
end

section
/-! PROOFS of the family 41_status_poller: the poll loop and the comparator (R130 to R133), ESTATE through every step
(R136), and the failing answer that ends a request (R137). -/

namespace Sys2Proof.Machine

/-! ## The poll loop (R130, R131) -/

section
variable (d : Draw) (tick : Nat) (spec : PollSpec) (p : Poller)

/-- The comparator registers after `m` samples of a poll. -/
def polled : Nat → Poller
  | 0 => loadSpec spec p
  | m + 1 => takeSample (statusSample d tick m) (polled m)

/-- Sample `k` hits (R130). -/
def SampleHits (k : Nat) : Prop := (statusSample d tick k &&& spec.mask) = spec.value

/-- The poll goes on after sample `k`: no BUS_ERROR is drawn before it, and it does not hit. -/
def PassesSample (k : Nat) : Prop := d.busErrorAfter ≠ some k ∧ ¬ SampleHits d tick spec k

/-- How a poll that went on after `m` samples ends (R131): TIMED_OUT when they are the whole budget, else BUS_ERROR
before sample `m`, or OK at sample `m`, which hits. -/
inductive PollEnds (m : Nat) : Answer × Poller → Prop where
  | timedOut (spent : m = pollBudget spec.interval spec.timeout) : PollEnds m (.timedOut, polled d tick spec p m)
  | busError (left : m < pollBudget spec.interval spec.timeout) (drawn : d.busErrorAfter = some m) :
      PollEnds m (.busError, polled d tick spec p m)
  | ok (left : m < pollBudget spec.interval spec.timeout) (noError : d.busErrorAfter ≠ some m)
      (hits : SampleHits d tick spec m) : PollEnds m (.ok, polled d tick spec p (m + 1))

theorem polled_count (m : Nat) : (polled d tick spec p m).count = m := by
  induction m with
  | zero => rfl
  | succ m ih => exact congrArg (· + 1) ih

theorem polled_spec (m : Nat) :
    (polled d tick spec p m).mask = spec.mask ∧ (polled d tick spec p m).value = spec.value := by
  induction m with
  | zero => exact ⟨rfl, rfl⟩
  | succ m ih => exact ih

theorem polled_hit (m : Nat) : (polled d tick spec p (m + 1)).hit = true ↔ SampleHits d tick spec m := by
  obtain ⟨hmask, hvalue⟩ := polled_spec d tick spec p m
  simp [polled, takeSample, comparator, SampleHits, hmask, hvalue]

/-- P_SAMPLE and HIT are the last sample's. -/
theorem polled_last {c k : Nat} (hk : (polled d tick spec p c).count = k + 1) :
    (polled d tick spec p c).sample = statusSample d tick k ∧
      ((polled d tick spec p c).hit = true ↔ SampleHits d tick spec k) := by
  obtain rfl : c = k + 1 := (polled_count d tick spec p c).symm.trans hk
  exact ⟨rfl, polled_hit d tick spec p k⟩

/-- The samples a poll has taken, within the budget and at most one after those it went on after. -/
theorem PollEnds.samples {m : Nat} {r : Answer × Poller} (h : PollEnds d tick spec p m r) :
    ∃ c, c ≤ pollBudget spec.interval spec.timeout ∧ c ≤ m + 1 ∧ r.2 = polled d tick spec p c := by
  cases h with
  | timedOut spent => exact ⟨m, spent.le, m.le_succ, rfl⟩
  | busError left => exact ⟨m, left.le, m.le_succ, rfl⟩
  | ok left => exact ⟨m + 1, left, le_rfl, rfl⟩

theorem pollLoop_polled (n m : Nat) : pollLoop d tick (n + 1) (polled d tick spec p m) =
    if d.busErrorAfter = some m then (.busError, polled d tick spec p m)
    else if (polled d tick spec p (m + 1)).hit then (.ok, polled d tick spec p (m + 1))
    else pollLoop d tick n (polled d tick spec p (m + 1)) := by
  rw [pollLoop, polled_count]
  rfl

/-- The rest of the loop, `m` samples having been taken. -/
theorem pollLoop_ends {n m : Nat} (hn : m + n = pollBudget spec.interval spec.timeout)
    (hm : ∀ k < m, PassesSample d tick spec k) :
    ∃ j, (∀ k < j, PassesSample d tick spec k) ∧
      PollEnds d tick spec p j (pollLoop d tick n (polled d tick spec p m)) := by
  induction n generalizing m with
  | zero => exact ⟨m, hm, .timedOut hn⟩
  | succ n ih =>
    have hleft : m < pollBudget spec.interval spec.timeout := by omega
    rw [pollLoop_polled]
    split_ifs with hbus hhit
    · exact ⟨m, hm, .busError hleft hbus⟩
    · exact ⟨m, hm, .ok hleft hbus ((polled_hit d tick spec p m).1 hhit)⟩
    · refine ih (by omega) fun k hk => ?_
      obtain hk | rfl := Nat.lt_succ_iff_lt_or_eq.1 hk
      · exact hm k hk
      · exact ⟨hbus, mt (polled_hit d tick spec p k).2 hhit⟩

/-- What a poll can do (R131). -/
theorem runPoll_ends :
    ∃ m, (∀ k < m, PassesSample d tick spec k) ∧ PollEnds d tick spec p m (runPoll d tick spec p) :=
  pollLoop_ends d tick spec p (m := 0) (Nat.zero_add _) nofun

end

/-- Settles O14: POLL is `pollOp`, whose poll ends as `runPoll_ends` lists. -/
theorem pollAnswersExactly : Obligations.PollAnswersExactly := by
  intro s spec hw hm
  obtain ⟨hmask, hvalue, hinterval, htimeout⟩ :=
    pollLoop_keeps_spec (nextDraw s.dev) s.dev.tick (pollBudget spec.interval spec.timeout) (loadSpec spec s.pol)
  obtain ⟨m, hpass, hend⟩ := runPoll_ends (nextDraw s.dev) s.dev.tick spec s.pol
  obtain ⟨c, hbudget, hcm, hc⟩ := hend.samples
  have hcount : (pollOp spec s).pol.count = c := (congrArg Poller.count hc).trans (polled_count ..)
  refine ⟨pollOp spec s, _, exec_poll_of_indirect spec hw hm, rfl, rfl, hmask, hvalue, hinterval, htimeout,
    hcount.trans_le hbudget, fun k hk => (hpass k (by omega)).2, fun k hk => ?_, ?_⟩
  · rw [pollOp_pol, hc] at hk ⊢
    exact polled_last _ _ _ _ hk
  · rw [pollOp_pol, pollOp_seq]
    generalize runPoll (nextDraw s.dev) s.dev.tick spec s.pol = r at hend ⊢
    cases hend with
    | timedOut spent =>
      exact .inr (.inl ⟨rfl, (polled_count ..).trans spent, fun k hk => (hpass k (spent ▸ hk)).2,
        fun k hk => (hpass k (spent ▸ hk)).1⟩)
    | busError left drawn =>
      rw [polled_count]
      exact .inr (.inr ⟨rfl, left, fun k hk => (hpass k hk).2, drawn⟩)
    | ok left noError hits =>
      rw [polled_count]
      refine .inl ⟨rfl, Nat.succ_pos m, hits, fun k hk => ?_⟩
      obtain hk | rfl := Nat.lt_succ_iff_lt_or_eq.1 hk
      · exact (hpass k hk).1
      · exact noError

/-! ## Corner cases (R133) -/

theorem wipBit_ne_zero_of_wf {cfg : Cfg} (h : cfg.wf = true) : cfg.cat.wipBit ≠ 0 := by
  simp only [Cfg.wf, globalsOk, Bool.and_eq_true, bne_iff_ne] at h
  obtain ⟨⟨-, -, hwip⟩, -⟩ := h
  exact hwip

/-- A sample that hits has every match bit inside the mask. -/
theorem match_inside_mask_of_hit {d : Draw} {tick : Nat} {spec : PollSpec} {k : Nat} (h : SampleHits d tick spec k) :
    spec.value &&& ~~~ spec.mask = 0 := by
  rw [← h, BitVec.and_assoc, BitVec.and_not_self]
  exact BitVec.and_zero

theorem pollBudget_of_lt {interval timeout : Word} (h : timeout.toNat < max interval.toNat 1) :
    pollBudget interval timeout = 1 := by
  rw [pollBudget, Nat.div_eq_of_lt h]

/-- Settles O16: the ends of `runPoll_ends` that mask and match leave, and the arithmetic of `pollBudget`. -/
theorem comparatorCornerCases : Obligations.ComparatorCornerCases := by
  refine ⟨fun d tick p interval timeout => ?_, fun d tick p spec hout => ?_, fun cfg hw => ?_, fun i t h => ?_,
    fun _ => rfl⟩
  · obtain ⟨m, hpass, hend⟩ := runPoll_ends d tick ⟨0, 0, interval, timeout⟩ p
    have hhits (k : Nat) : SampleHits d tick ⟨0, 0, interval, timeout⟩ k := BitVec.and_zero
    obtain rfl : m = 0 := Nat.eq_zero_of_not_pos fun hm => (hpass 0 hm).2 (hhits 0)
    generalize runPoll d tick ⟨0, 0, interval, timeout⟩ p = r at hend ⊢
    cases hend with
    | timedOut spent => exact absurd spent (Nat.succ_ne_zero _).symm
    | busError => exact .inr ⟨rfl, rfl⟩
    | ok => exact .inl ⟨rfl, rfl⟩
  · obtain ⟨m, -, hend⟩ := runPoll_ends d tick spec p
    generalize runPoll d tick spec p = r at hend ⊢
    cases hend with
    | timedOut spent => exact .inl ⟨rfl, (polled_count ..).trans spent⟩
    | busError => exact .inr rfl
    | ok _ _ hits => exact absurd (match_inside_mask_of_hit hits) hout
  · exact ⟨(globals_of_wf hw).2, wipBit_ne_zero_of_wf hw, BitVec.and_not_self _, fun _ => BitVec.zero_and⟩
  · refine pollBudget_of_lt ?_
    obtain h | ⟨rfl, rfl⟩ := h
    · exact lt_max_of_lt_left (BitVec.lt_def.1 h)
    · decide

/-! ## A request, part by part: ESTATE (R136) and the first failing answer (R137)

Between its calls a request is `Continues` from its first line; its response `Concludes` it. -/

/-- Changes of ESTATE that lead from IDLE back to IDLE, each one of the table's (R136). -/
structure IdleLoop (es : List (EState × EState)) : Prop where
  listed : ∀ p ∈ es, estateTransition p.1 p.2 = true
  chained : es.IsChain (fun p q => q.1 = p.2)
  first : ∀ p ∈ es.head?, p.1 = .idle
  last : ∀ p ∈ es.getLast?, p.2 = .idle

theorem idleLoop_nil : IdleLoop [] := ⟨by simp, .nil, by simp, by simp⟩

theorem IdleLoop.append {es fs : List (EState × EState)} (h : IdleLoop es) (k : IdleLoop fs) :
    IdleLoop (es ++ fs) := by
  refine ⟨fun p hp => (List.mem_append.1 hp).elim (h.listed p) (k.listed p), ?_, fun p hp => ?_, fun p hp => ?_⟩
  · exact List.isChain_append.2 ⟨h.chained, k.chained, fun p hp q hq => (k.first q hq).trans (h.last p hp).symm⟩
  · rw [List.head?_append, Option.mem_def, Option.or_eq_some_iff] at hp
    exact hp.elim (h.first p) fun hp => k.first p hp.2
  · rw [List.getLast?_append, Option.mem_def, Option.or_eq_some_iff] at hp
    exact hp.elim (k.last p) fun hp => h.last p hp.2

/-- WCMD goes through its states and back to IDLE (R135). -/
theorem idleLoop_wcmdTransitions : IdleLoop wcmdTransitions := ⟨by decide, by decide, by decide, by decide⟩

/-- Whichever of its four calls fails, WCMD goes to FAILED and from there to IDLE (R135, R137). -/
theorem idleLoop_wcmdFailed {n : Nat} (hn : n < 4) :
    IdleLoop (wcmdTransitions.take n ++
      [((wcmdTransitions.map Prod.fst).getD n .idle, .failed), (.failed, .idle)]) := by
  interval_cases n <;> exact ⟨by decide, by decide, by decide, by decide⟩

theorem idleLoop_fail : IdleLoop [(.idle, .failed), (.failed, .idle)] := idleLoop_wcmdFailed (n := 0) (by decide)

/-- These are the events of `i` up to a response of STATUS `st`: only the last one may have failed, and `st` reports
it (R137). -/
structure EndsAtFailure (i : Instr) (es : List Event) (st : Status) : Prop where
  before : AllOk es.dropLast
  ok_iff : st = .ok ↔ AllOk es
  reported : ∀ e a, es.getLast? = some e → eventAnswer e = some a → a ≠ .ok → st = failureStatus i a

theorem answeredOk_iff {e : Event} {a : Answer} (h : eventAnswer e = some a) : answeredOk e = true ↔ a = .ok := by
  simp [answeredOk, h]

/-- Among calls answered OK none has another answer. -/
theorem AllOk.answer {es : List Event} (h : AllOk es) {e : Event} {a : Answer} (he : es.getLast? = some e)
    (ha : eventAnswer e = some a) : a = .ok :=
  (answeredOk_iff ha).1 (h e (List.mem_of_getLast? he))

theorem failureStatus_ne_ok (i : Instr) {a : Answer} (ha : a ≠ .ok) : failureStatus i a ≠ .ok := by
  unfold failureStatus
  cases a with
  | ok => exact absurd rfl ha
  | busError | timedOut => split <;> simp [statusOf]

section
variable {i : Instr}

theorem AllOk.endsAtFailure {es : List Event} (h : AllOk es) : EndsAtFailure i es .ok :=
  ⟨fun e he => h e (List.mem_of_mem_dropLast he), ⟨fun _ => h, fun _ => rfl⟩,
    fun _ _ he ha hne => absurd (h.answer he ha) hne⟩

/-- Calls answered OK, and then one that was not. -/
theorem AllOk.thenFailure {es : List Event} (h : AllOk es) {e : Event} {a : Answer} (ha : eventAnswer e = some a)
    (hne : a ≠ .ok) : EndsAtFailure i (es ++ [e]) (failureStatus i a) := by
  refine ⟨by rwa [List.dropLast_concat], iff_of_false (failureStatus_ne_ok i hne) fun hall => ?_,
    fun e' b he hb _ => ?_⟩
  · exact hne ((answeredOk_iff ha).1 (hall e (by simp)))
  · obtain rfl : e = e' := by simpa using he
    rw [Option.some.inj (ha.symm.trans hb)]

theorem AllOk.thenEnds {es fs : List Event} {st : Status} (h : AllOk es) (k : EndsAtFailure i fs st) :
    EndsAtFailure i (es ++ fs) st := by
  obtain rfl | ⟨fs, e, rfl⟩ := List.eq_nil_or_concat' fs
  · obtain rfl : st = .ok := k.ok_iff.2 allOk_nil
    rw [List.append_nil]
    exact h.endsAtFailure
  · obtain ⟨hbefore, hok, hreported⟩ := k
    refine ⟨?_, hok.trans ⟨h.append, fun hall x hx => hall x (List.mem_append_right _ hx)⟩, ?_⟩
    · rw [List.dropLast_concat] at hbefore
      simpa [← List.append_assoc] using h.append hbefore
    · simpa [← List.append_assoc] using hreported

end

/-- From `s` to `t` ESTATE went from IDLE back to IDLE by the table of R136. -/
structure ReturnsToIdle (s t : State) : Prop where
  idle : t.estate = .idle
  log : ∃ new, t.esLog = s.esLog ++ new ∧ IdleLoop new

/-- From `s` to `t` every call was answered OK. -/
def CallsOk (s t : State) : Prop := ∃ new, t.trace = s.trace ++ new ∧ AllOk new

/-- From `s` the request has come to `t` and goes on. -/
structure Continues (s t : State) : Prop extends ReturnsToIdle s t where
  calls : CallsOk s t

/-- From `s` the request `i` has come to its response in `t`. -/
structure Concludes (i : Instr) (s t : State) : Prop extends ReturnsToIdle s t where
  report : ∃ new, t.trace = s.trace ++ new ∧ EndsAtFailure i new t.rsp.status

theorem ReturnsToIdle.of_eq {s t : State} (h : s.estate = .idle) (he : t.estate = s.estate) (hl : t.esLog = s.esLog) :
    ReturnsToIdle s t :=
  ⟨he.trans h, [], by simp [hl], idleLoop_nil⟩

theorem ReturnsToIdle.trans {s t u : State} (h : ReturnsToIdle s t) (k : ReturnsToIdle t u) : ReturnsToIdle s u := by
  obtain ⟨-, es, ht, hes⟩ := h
  obtain ⟨hu, fs, kt, kfs⟩ := k
  exact ⟨hu, es ++ fs, by rw [kt, ht, List.append_assoc], hes.append kfs⟩

/-- What writes neither ESTATE nor its log: the rules of `Frame` say it of every line and read. -/
theorem ReturnsToIdle.of_frame {s t : State} (h : s.estate = .idle) {w : List Reg} (hf : Frame w s t)
    (hw : .request ∉ w) : ReturnsToIdle s t := by
  obtain ⟨he, hl, -, -⟩ := hf .request hw
  exact .of_eq h he hl

theorem returnsToIdle_respond {s : State} (h : s.estate = .idle) (r : Response) : ReturnsToIdle s (respond r s) :=
  .of_eq h ((respond_estate r s).trans h.symm) (by rw [respond_esLog, if_pos h])

theorem returnsToIdle_accept {s : State} (h : s.estate = .idle) (op : BitVec 4) : ReturnsToIdle s (accept op s) :=
  .of_eq h ((accept_estate op s).trans h.symm) (by rw [accept_esLog, if_pos h])

theorem returnsToIdle_fail {s : State} (h : s.estate = .idle) (k : Status) (a : Word) : ReturnsToIdle s (fail k a s) :=
  ⟨fail_estate k a s, _, by rw [fail_esLog, h, if_neg (by decide), List.append_assoc]; rfl, idleLoop_fail⟩

theorem callsOk_of_eq {s t : State} (h : t.trace = s.trace) : CallsOk s t := ⟨[], by simp [h], allOk_nil⟩

theorem CallsOk.trans {s t u : State} (h : CallsOk s t) (k : CallsOk t u) : CallsOk s u := by
  obtain ⟨es, ht, hes⟩ := h
  obtain ⟨fs, kt, kfs⟩ := k
  exact ⟨es ++ fs, by rw [kt, ht, List.append_assoc], hes.append kfs⟩

theorem Went.callsOk {i : Instr} {s t : State} (h : Went i s t) : CallsOk s t := by
  obtain ⟨-, new, ht, hok, -⟩ := h
  exact ⟨new, ht, hok⟩

theorem Continues.trans {s t u : State} (h : Continues s t) (k : Continues t u) : Continues s u :=
  ⟨h.toReturnsToIdle.trans k.toReturnsToIdle, h.calls.trans k.calls⟩

theorem Continues.concludes {i : Instr} {s t u : State} (h : Continues s t) (k : Concludes i t u) :
    Concludes i s u := by
  obtain ⟨es, ht, hes⟩ := h.calls
  obtain ⟨fs, kt, kfs⟩ := k.report
  exact ⟨h.toReturnsToIdle.trans k.toReturnsToIdle, es ++ fs, by rw [kt, ht, List.append_assoc], hes.thenEnds kfs⟩

/-- A write of registers other than ESTATE. -/
theorem Continues.of_eq {s t : State} (h : s.estate = .idle) (he : t.estate = s.estate) (hl : t.esLog = s.esLog)
    (ht : t.trace = s.trace) : Continues s t :=
  ⟨.of_eq h he hl, callsOk_of_eq ht⟩

theorem Continues.refl {s : State} (h : s.estate = .idle) : Continues s s := .of_eq h rfl rfl rfl

theorem concludes_respond {i : Instr} {s : State} (h : s.estate = .idle) {r : Response} (hr : r.status = .ok) :
    Concludes i s (respond r s) := by
  refine ⟨returnsToIdle_respond h r, [], by simp, ?_⟩
  rw [respond_rsp, hr]
  exact allOk_nil.endsAtFailure

/-- A run of the request `i` from `s`, going on or ended. -/
def Run.Follows (i : Instr) (s : State) : Run → Prop
  | .going t => Continues s t
  | .ended t => Concludes i s t

section
variable {i : Instr} {s : State}

theorem Run.Follows.after {t : State} {r : Run} (hr : r.Follows i t) (h : Continues s t) : r.Follows i s := by
  cases r with
  | going u => exact h.trans hr
  | ended u => exact h.concludes hr

theorem Run.Follows.andThen {r : Run} {f : State → Run} (hr : r.Follows i s)
    (hf : ∀ t, t.estate = .idle → (f t).Follows i t) : (andThen r f).Follows i s := by
  cases r with
  | going t => exact (hf t hr.idle).after hr
  | ended t => exact hr

theorem Run.Follows.finish {r : Run} {f : State → State} (hr : r.Follows i s)
    (hf : ∀ t, t.estate = .idle → Concludes i t (f t)) : Concludes i s (finish r f) := by
  cases r with
  | going t => exact Continues.concludes hr (hf t hr.idle)
  | ended t => exact hr

theorem Run.Follows.finish_ok {r : Run} (hr : r.Follows i s) : Concludes i s (Machine.finish r (respond okResponse)) :=
  hr.finish fun _ ht => concludes_respond ht rfl

/-! ### Calls -/

theorem PlainCall.continues {t : State} (hc : PlainCall s t) (h : ReturnsToIdle s t) (hok : t.seq.ret = .ok) :
    Continues s t :=
  ⟨h, (hc.went (i := .init) hok).callsOk⟩

theorem PlainCall.fails {t : State} (hc : PlainCall s t) (h : ReturnsToIdle s t) (hne : t.seq.ret ≠ .ok) (ea : Word) :
    Concludes i s (fail (failureStatus i t.seq.ret) ea t) := by
  obtain ⟨-, e, ht, -, ha⟩ := hc
  refine ⟨h.trans (returnsToIdle_fail h.idle _ ea), [e], by rw [fail_trace, ht], ?_⟩
  rw [fail_rsp]
  exact allOk_nil.thenFailure ha hne

theorem follows_orFail (hi : i ≠ .init) {t : State} (hc : PlainCall s t) (h : ReturnsToIdle s t) (ea : Word) :
    (orFail ea t).Follows i s := by
  obtain ⟨hok, e⟩ | ⟨hne, e⟩ := orFail_cases ea t <;> rw [e]
  · exact hc.continues h hok
  · have hfail := hc.fails (i := i) h hne ea
    rwa [failureStatus, if_neg hi] at hfail

theorem follows_orInitError {t : State} (hc : PlainCall s t) (h : ReturnsToIdle s t) :
    (orInitError t).Follows .init s := by
  obtain ⟨hok, e⟩ | ⟨hne, e⟩ := orInitError_cases t <;> rw [e]
  · exact hc.continues h hok
  · exact hc.fails h hne 0

theorem follows_ite (h : s.estate = .idle) (c : Prop) [Decidable c] {r : Run} (hr : r.Follows i s) :
    (if c then r else .going s).Follows i s := by
  split_ifs
  · exact hr
  · exact .refl h

theorem follows_ensureIndirect (hi : i ≠ .init) (h : s.estate = .idle) (ea : Word) :
    (ensureIndirect ea s).Follows i s :=
  follows_ite h _ (follows_orFail hi (plainCall_abort s) (.of_eq h rfl rfl) ea)

theorem follows_ensureMapped (hi : i ≠ .init) (h : s.estate = .idle) (ea : Word) : (ensureMapped ea s).Follows i s :=
  follows_ite h _ (follows_orFail hi (plainCall_map s) (.of_eq h rfl rfl) ea)

theorem eventAnswer_of_mem_wcmdTrace {cat : Catalog} {k : Kind} {a : Nat} {payload : List Byte} {tmo : Word} {e : Event}
    (h : e ∈ wcmdTrace cat k a payload tmo) : ∃ r, eventAnswer e = some r := by
  simp only [wcmdTrace, List.mem_cons, List.not_mem_nil, or_false] at h
  obtain rfl | rfl | rfl | rfl := h <;> exact ⟨_, rfl⟩

theorem eventAnswer_withAnswer {e : Event} {a : Answer} (h : eventAnswer e = some a) (r : Answer) :
    eventAnswer (withAnswer e r) = some r := by
  cases e with
  | send | poll | map | abort => rfl
  | memRd | ramRd => cases h

/-- WCMD as `elementaryCommandCalls` describes it. -/
theorem follows_wcmd (hi : i ≠ .init) (h : s.estate = .idle) (k : Kind) (a : Nat) (payload : List Byte)
    (tmo ea : Word) : (wcmd k a payload tmo ea s).Follows i s := by
  obtain ⟨u, e, ht, he, hl, -⟩ | ⟨u, n, ev, r, e, hn, hr, -, ht, he, -, hl, hrsp⟩ :=
    elementaryCommandCalls k a payload tmo ea s h <;> rw [e]
  · exact ⟨⟨he, _, hl, idleLoop_wcmdTransitions⟩, _, ht, allOk_wcmdTrace _ _ _ _ _⟩
  · have hok := allOk_wcmdTrace s.cfg.cat k a payload tmo
    obtain ⟨b, hb⟩ := eventAnswer_of_mem_wcmdTrace (List.mem_of_getElem? hn)
    have hst : u.rsp.status = failureStatus i r := by rw [hrsp, failureStatus, if_neg hi]
    refine ⟨⟨he, _, by rw [hl, List.append_assoc], idleLoop_wcmdFailed (List.getElem?_eq_some_iff.1 hn).1⟩, _,
      by rw [ht, List.append_assoc], ?_⟩
    rw [hst]
    exact AllOk.thenFailure (fun x hx => hok x (List.mem_of_mem_take hx)) (eventAnswer_withAnswer hb r) hr

/-! ### Requests -/

theorem follows_initSend {k : Kind} (hk : changesFlash k = false) (h : s.estate = .idle) :
    (initSend k s).Follows .init s :=
  follows_orInitError (plainCall_send hk 0 [] s) (.of_eq h rfl rfl)

theorem follows_initLines (h : s.estate = .idle) : (initLines s).Follows .init s := by
  refine (follows_ite h _ (follows_orInitError (plainCall_abort s) (.of_eq h rfl rfl))).andThen fun s h => ?_
  refine (follows_ite h _ (follows_initSend rfl h)).andThen fun s h => ?_
  refine (follows_initSend rfl h).andThen fun s h => ?_
  refine (follows_orInitError (plainCall_poll _ s) (.of_eq h rfl rfl)).andThen fun s h => ?_
  refine (follows_ite h _ (follows_initSend rfl h)).andThen fun s h => ?_
  exact follows_ite h _ (follows_orInitError (plainCall_map s) (.of_eq h rfl rfl))

theorem continues_setInitDone (h : s.estate = .idle) (x : Bool) : Continues s { s with initDone := x } :=
  .of_eq h rfl rfl rfl

theorem concludes_initBody (h : s.estate = .idle) : Concludes .init s (initBody s) :=
  ((follows_initLines (s := { s with initDone := false }) h).after (continues_setInitDone h false)).finish fun t ht =>
    (continues_setInitDone ht true).concludes (concludes_respond (s := { t with initDone := true }) ht rfl)

theorem concludes_eraseAllBody (hi : i ≠ .init) (h : s.estate = .idle) : Concludes i s (eraseAllBody s) :=
  ((follows_ensureIndirect hi h 0).andThen fun _ ht => follows_wcmd hi ht _ _ _ _ _).finish_ok

theorem follows_eraseSector (hi : i ≠ .init) (h : s.estate = .idle) : (eraseSector s).Follows i s :=
  (follows_wcmd hi h _ _ _ _ _).andThen fun _ ht => Continues.of_eq ht rfl rfl rfl

theorem follows_eraseLoop (hi : i ≠ .init) (n : Nat) {s : State} (h : s.estate = .idle) :
    (eraseLoop n s).Follows i s := by
  induction n generalizing s with
  | zero => exact .refl h
  | succ n ih => exact follows_ite h _ ((follows_eraseSector hi h).andThen fun _ => ih)

theorem concludes_eraseRangeBody (hi : i ≠ .init) (h : s.estate = .idle) (start length : Word) :
    Concludes i s (eraseRangeBody start length s) :=
  ((follows_ensureIndirect hi h start).andThen fun t ht =>
    (follows_eraseLoop hi _ (s := eraseStart start length t) ht).after (.of_eq ht rfl rfl rfl)).finish_ok

theorem follows_programChunk (hi : i ≠ .init) (h : s.estate = .idle) (start buf : Word) :
    (programChunk start buf s).Follows i s := by
  have hread : Continues s (readPayload s.spl.chunk.toNat (buf + (s.spl.cursor - start)) s).2 :=
    ⟨.of_frame h (frame_readPayload (w := []) _ _ s) (by simp), (went_readPayload (i := i) _ _ s).callsOk⟩
  refine Run.Follows.andThen ?_ fun t ht => Continues.of_eq (t := advanceChunk t) ht rfl rfl rfl
  exact (follows_wcmd hi hread.idle _ _ _ _ _).after hread

theorem follows_programLoop (hi : i ≠ .init) (start buf : Word) (n : Nat) {s : State} (h : s.estate = .idle) :
    (programLoop start buf n s).Follows i s := by
  induction n generalizing s with
  | zero => exact .refl h
  | succ n ih =>
    unfold programLoop
    split_ifs
    · exact .refl h
    · exact (follows_programChunk hi h start buf).andThen fun _ => ih

theorem concludes_programBody (hi : i ≠ .init) (h : s.estate = .idle) (start length buf : Word) :
    Concludes i s (programBody start length buf s) := by
  unfold programBody
  split_ifs
  · exact concludes_respond h rfl
  · exact ((follows_ensureIndirect hi h start).andThen fun t ht =>
      (follows_programLoop hi start buf _ (s := splitStart start length t) ht).after (.of_eq ht rfl rfl rfl)).finish_ok

theorem continues_checksumCore (h : s.estate = .idle) (start length seed : Word) :
    Continues s (checksumCore start length seed s) :=
  ⟨.of_frame h (frame_checksumCore (w := [.summer]) (by simp) start length seed s) (by simp),
    (went_checksumCore (i := .init) start length seed s).callsOk⟩

theorem concludes_checksumBody (hi : i ≠ .init) (h : s.estate = .idle) (start length seed : Word) :
    Concludes i s (checksumBody start length seed s) := by
  unfold checksumBody
  split_ifs
  · exact concludes_respond h rfl
  · refine (follows_ensureMapped hi h start).finish fun t ht => ?_
    have hsum := continues_checksumCore ht start length seed
    exact hsum.concludes (concludes_respond hsum.idle rfl)

/-- The two reads of a compared byte pair, and a write of the comparator's registers (R205). -/
theorem continues_verifyReads (h : s.estate = .idle) (a b : Word) (x : Verifier) :
    Continues s { ramReadOp b (memReadOp a.toNat 1 s) with vfy := x } :=
  ⟨.of_eq h rfl rfl, [.memRd a.toNat (readLanes a.toNat 1 s), .ramRd b (ramByte s.host.ram b)], by simp, by
    simp [AllOk, answeredOk, eventAnswer]⟩

theorem concludes_verifyLoop (start buf ck : Word) (n : Nat) {s : State} (h : s.estate = .idle) :
    Concludes i s (verifyLoop start buf ck n s) := by
  induction n generalizing s with
  | zero => exact concludes_respond h rfl
  | succ n ih =>
    have hreads := continues_verifyReads h (start + s.vfy.vidx) (buf + s.vfy.vidx)
    unfold verifyLoop
    dsimp only
    split_ifs
    · exact (hreads _).concludes (ih (hreads _).idle)
    · exact (hreads _).concludes (concludes_respond (hreads _).idle rfl)

theorem concludes_verifyBody (hi : i ≠ .init) (h : s.estate = .idle) (start length seed buf : Word) :
    Concludes i s (verifyBody start length seed buf s) := by
  unfold verifyBody
  split_ifs
  · exact concludes_respond h rfl
  · refine (follows_ensureMapped hi h start).finish fun t ht => ?_
    have hsum := continues_checksumCore ht start length seed
    have hstart := hsum.trans (.of_eq (t := verifyStart (checksumCore start length seed t)) hsum.idle rfl rfl rfl)
    exact hstart.concludes (concludes_verifyLoop start buf _ _ hstart.idle)

theorem concludes_runRequest {op : BitVec 4} {needsInit : Bool} {extent : Nat} {body : State → State} {t : State}
    (hb : ∀ {s}, s.estate = .idle → Concludes i s (body s)) (h : runRequest op needsInit extent body s = .next t) :
    ∃ op, Concludes i (accept op s) t := by
  obtain ⟨-, rfl⟩ := runRequest_eq_next.1 h
  exact ⟨op, hb (accept_estate op s)⟩

/-- Every request, once accepted (R225), concludes. -/
theorem exec_request_concludes {t : State} (hi : isRequest i = true) (h : exec i s = .next t) :
    ∃ op, Concludes i (accept op s) t := by
  cases i with
  | init => exact concludes_runRequest concludes_initBody h
  | program start length buf =>
    exact concludes_runRequest (fun h => concludes_programBody (by simp) h start length buf) h
  | eraseRange start length =>
    exact concludes_runRequest (fun h => concludes_eraseRangeBody (by simp) h start length) h
  | eraseAll => exact concludes_runRequest (concludes_eraseAllBody (by simp)) h
  | checksum start length seed =>
    exact concludes_runRequest (fun h => concludes_checksumBody (by simp) h start length seed) h
  | verify start length seed buf =>
    exact concludes_runRequest (fun h => concludes_verifyBody (by simp) h start length seed buf) h
  | resetEnable | reset | writeEnable | readStatus | pageProgram | sectorErase | chipErase | quadRead | enter4Byte
  | send | poll | map | abort => cases hi

/-! ### Every instruction and every step -/

theorem exec_returnsToIdle {t : State} (hx : exec i s = .next t) (h : s.estate = .idle) : ReturnsToIdle s t := by
  by_cases hi : isRequest i = true
  · obtain ⟨op, hend⟩ := exec_request_concludes hi hx
    exact (returnsToIdle_accept h op).trans hend.toReturnsToIdle
  · exact .of_frame h (exec_frame hx) (mt request_mem_writesOf.1 hi)

theorem step_returnsToIdle {t : State} (hs : step s = .next t) (h : s.estate = .idle) : ReturnsToIdle s t := by
  obtain ⟨_, ⟨r, i, -, -, hx⟩ | ⟨-, -, rfl⟩ | ⟨ms, -, -, rfl⟩ | ⟨req, buffer, ms, i, -, -, -, hx⟩ |
    ⟨req, buffer, ms, -, -, -, rfl⟩⟩ := step_cases hs
  · exact ReturnsToIdle.trans (t := leaveLine r s) (.of_eq h rfl rfl) (exec_returnsToIdle hx h)
  · exact .of_eq h rfl rfl
  · exact .of_eq h h.symm rfl
  · exact ReturnsToIdle.trans (t := takeMove ms buffer s) (.of_eq h rfl rfl) (exec_returnsToIdle hx h)
  · exact .of_eq h rfl rfl

end

/-- Settles O52: every call of a request leaves ESTATE on a loop of the table through IDLE, WCMD's being that of
`elementaryCommandCalls`. -/
theorem estateFollowsItsTable : Obligations.EstateFollowsItsTable := by
  intro s t hs h
  obtain ⟨hidle, new, hlog, hlisted, hchained, hfirst, hlast⟩ := step_returnsToIdle hs h
  exact ⟨hidle, new, hlog, hlisted, hchained, hfirst, hlast⟩

/-- Settles O41: a request `Continues` over calls answered OK only, and `Concludes` at the first other answer. -/
theorem firstFailureEndsTheRequest : Obligations.FirstFailureEndsTheRequest := by
  intro i s t hi hx
  obtain ⟨op, -, new, ht, hbefore, hok, hreported⟩ := exec_request_concludes hi hx
  exact ⟨new, by rw [ht, accept_trace], hbefore, hok, hreported⟩

end Sys2Proof.Machine
end

section
/-! PROOFS of the family 42_page_write_splitter: the chunks (R152, R153), what a PROGRAM issues and reports (R150,
R154, R235), the bytes it leaves (R151), and the requests of length 0 (R150, R195, R205, R238). -/

namespace Sys2Proof.Machine

/-! ## Requests of length 0 -/

/-- A response between two requests writes the response registers alone. -/
theorem respond_accept {s : State} (he : s.estate = .idle) (hc : s.curOp = 0) (op : BitVec 4) (r : Response) :
    respond r (accept op s) = { s with rsp := r } := by
  obtain ⟨⟩ := s
  simp_all [respond, accept, setEState]

theorem runRequest_of_extent {s : State} {extent : Nat} (hw : s.cfg.wf = true) (hi : s.initDone = true)
    (hx : extent ≤ 2 ^ 32 - 1) (op : BitVec 4) (body : State → State) :
    runRequest op true extent body s = .next (body (accept op s)) :=
  runRequest_eq_next.2 ⟨requestRefusal_eq_none.2 ⟨hw, fun _ => hi, hx⟩, rfl⟩

/-- Settles O37: the three bodies respond at once where `length` is 0. -/
theorem zeroLengthRequestsDoNothing : Obligations.ZeroLengthRequestsDoNothing := by
  intro s start seed buf hw hi he hc
  have hx : start.toNat + (0 : Word).toNat ≤ 2 ^ 32 - 1 := Nat.le_sub_one_of_lt start.isLt
  refine ⟨?_, ?_, ?_⟩
  · rw [exec_program, runRequest_of_extent hw hi hx, programBody, if_pos rfl, respond_accept he hc]
    rfl
  · rw [exec_checksum, runRequest_of_extent hw hi hx, checksumBody, if_pos rfl, respond_accept he hc]
    rfl
  · rw [exec_verify, runRequest_of_extent hw hi hx, verifyBody, if_pos rfl, respond_accept he hc]
    rfl

/-! ## The chunks (R152, R153) -/

/-- The chunks are none where nothing is left, and else the first and the chunks of the rest. -/
theorem chunkList_induction {p : Nat} (hp : 1 ≤ p) {P : Nat → Nat → List (Nat × Nat) → Prop} (nil : ∀ c, P c 0 [])
    (cons : ∀ c r n cs, n = min (p - c % p) r → 1 ≤ n → P (c + n) (r - n) cs → P c r ((c, n) :: cs)) (c r : Nat) :
    P c r (chunkList p c r) := by
  induction r using Nat.strong_induction_on generalizing c with
  | _ r ih =>
    by_cases hr : r = 0
    · rw [hr, chunkList, if_pos rfl]
      exact nil c
    · have hlt := Nat.mod_lt c hp
      rw [chunkList_of_ne_zero hp hr]
      exact cons c r _ _ rfl (by omega) (ih _ (by omega) _)

/-- A chunk that stops at the end of its page lies in one page. -/
theorem div_eq_of_le_pageRest {p c n : Nat} (hpos : 1 ≤ n) (hn : n ≤ p - c % p) : c / p = (c + n - 1) / p := by
  have hc := Nat.div_add_mod c p
  have e : c + n - 1 = p * (c / p) + (c % p + (n - 1)) := by omega
  have hlt : c % p + (n - 1) < p := by omega
  rw [e, Nat.mul_add_div (by omega), Nat.div_eq_of_lt hlt, Nat.add_zero]

theorem chunkList_mem {p : Nat} (hp : 1 ≤ p) (start length : Nat) :
    ∀ c ∈ chunkList p start length, 1 ≤ c.2 ∧ c.2 ≤ p ∧ c.1 / p = (c.1 + c.2 - 1) / p := by
  refine chunkList_induction hp (P := fun _ _ cs => ∀ c ∈ cs, 1 ≤ c.2 ∧ c.2 ≤ p ∧ c.1 / p = (c.1 + c.2 - 1) / p)
    (fun _ => List.forall_mem_nil _) (fun c r n cs hn hpos ih => ?_) start length
  have hrest : n ≤ p - c % p := hn.trans_le (Nat.min_le_left _ _)
  exact List.forall_mem_cons.2 ⟨⟨hpos, hrest.trans (Nat.sub_le _ _), div_eq_of_le_pageRest hpos hrest⟩, ih⟩

theorem chunkList_sum {p : Nat} (hp : 1 ≤ p) (start length : Nat) :
    ((chunkList p start length).map Prod.snd).sum = length := by
  refine chunkList_induction hp (P := fun _ r cs => (cs.map Prod.snd).sum = r) (fun _ => rfl)
    (fun c r n cs hn hpos ih => ?_) start length
  rw [List.map_cons, List.sum_cons, ih]
  omega

theorem chunkList_head {p start length : Nat} {c : Nat × Nat} (h : (chunkList p start length).head? = some c) :
    c.1 = start := by
  unfold chunkList at h
  dsimp only at h
  split_ifs at h
  · cases h
  · exact (congrArg Prod.fst (Option.some.inj h)).symm

/-- Each chunk starts where the one before ended, the first one at `start`. -/
theorem chunkList_isChain {p : Nat} (hp : 1 ≤ p) (start length : Nat) :
    (chunkList p start length).IsChain (fun c d => d.1 = c.1 + c.2) := by
  refine (chunkList_induction hp (P := fun c _ cs => cs.IsChain (fun c d => d.1 = c.1 + c.2) ∧
    ∀ d ∈ cs.head?, d.1 = c) (fun _ => ⟨.nil, nofun⟩) (fun c r n cs _ _ ih => ?_) start length).1
  obtain ⟨hchain, hhead⟩ := ih
  exact ⟨List.isChain_cons.2 ⟨hhead, hchain⟩, fun d hd => Option.some.inj hd ▸ rfl⟩

theorem chunkList_length {p : Nat} (hp : 1 ≤ p) {length : Nat} (start : Nat) (hl : 1 ≤ length) :
    (chunkList p start length).length = (start % p + length + p - 1) / p := by
  refine (chunkList_induction hp (P := fun c r cs => (r = 0 → cs = []) ∧
    (1 ≤ r → cs.length = (c % p + r + p - 1) / p)) (fun _ => ⟨fun _ => rfl, nofun⟩)
    (fun c r n cs hn hpos ih => ⟨by omega, fun hr => ?_⟩) start length).2 hl
  obtain ⟨hnil, hlen⟩ := ih
  have hlt := Nat.mod_lt c hp
  by_cases hlast : r ≤ p - c % p
  · rw [hnil (by omega), Nat.div_eq_of_lt_le (k := 1) (by omega) (by omega)]
    rfl
  · have hpage : n = p - c % p := by omega
    have hrest : c % p + r + p - 1 = 0 + (r - n) + p - 1 + p := by omega
    rw [List.length_cons, hlen (by omega), hpage, add_pageRest_mod hp, ← hpage, hrest, Nat.add_div_right _ hp]

/-- Settles O23: by the recursion of the chunks. -/
theorem chunksPartitionTheRange : Obligations.ChunksPartitionTheRange := fun _ start length hp =>
  ⟨chunkList_mem hp start length, chunkList_sum hp start length, chunkList_isChain hp start length,
    fun _ => chunkList_head, chunkList_length hp start⟩

/-! ## One pass of the loop (R150) -/

/-- The payload reads of a chunk: the buffer's bytes, each an event. -/
theorem readPayload_eq (buf : Word) (n first : Nat) (s : State) :
    readPayload n (buf + BitVec.ofNat 32 first) s =
      (bufferBytes s.host.ram buf first n, { s with trace := s.trace ++ bufferReads s.host.ram buf first n }) := by
  induction n generalizing first s with
  | zero => simp [readPayload, bufferBytes, bufferReads]
  | succ n ih =>
    have hnext : buf + BitVec.ofNat 32 first + 1 = buf + BitVec.ofNat 32 (first + 1) := by
      rw [BitVec.ofNat_add, ← BitVec.add_assoc]
      rfl
    have hshift (j : Nat) : first + 1 + j = first + (j + 1) := by omega
    simp only [readPayload, hnext, ih, ramReadOp_host, ramReadOp_trace]
    simp [bufferBytes, bufferReads, bufferByte, List.range_succ_eq_map, Function.comp_def, hshift, ramReadOp, emit]

/-- The state after the payload reads of the chunk at CURSOR. -/
def chunkRead (start buf : Word) (s : State) : State :=
  { s with
    trace := s.trace ++ bufferReads s.host.ram buf (s.spl.cursor.toNat - start.toNat) s.spl.chunk.toNat }

@[simp] theorem chunkRead_cfg (start buf : Word) (s : State) : (chunkRead start buf s).cfg = s.cfg := rfl
@[simp] theorem chunkRead_host (start buf : Word) (s : State) : (chunkRead start buf s).host = s.host := rfl
@[simp] theorem chunkRead_dev (start buf : Word) (s : State) : (chunkRead start buf s).dev = s.dev := rfl

/-- The payload of the chunk at CURSOR. -/
def chunkBytes (start buf : Word) (s : State) : List Byte :=
  bufferBytes s.host.ram buf (s.spl.cursor.toNat - start.toNat) s.spl.chunk.toNat

theorem bufferBytes_length (ram : List Host.Cell) (buf : Word) (first n : Nat) :
    (bufferBytes ram buf first n).length = n := by simp [bufferBytes]

theorem chunkBytes_length (start buf : Word) (s : State) : (chunkBytes start buf s).length = s.spl.chunk.toNat :=
  bufferBytes_length _ _ _ _

/-- One pass of the loop is its payload reads, its elementary command and the advance of the splitter (R150). -/
theorem programChunk_eq {start : Word} (buf : Word) {s : State} (h : start.toNat ≤ s.spl.cursor.toNat) :
    programChunk start buf s =
      andThen (wcmd .pageProgram s.spl.cursor.toNat (chunkBytes start buf s) s.cfg.cat.tProgram s.spl.cursor
        (chunkRead start buf s)) fun u => .going (advanceChunk u) := by
  have hoffset : s.spl.cursor - start = BitVec.ofNat 32 (s.spl.cursor.toNat - start.toNat) := by
    rw [← BitVec.toNat_sub_of_le (BitVec.le_def.2 h), BitVec.ofNat_toNat, BitVec.setWidth_eq]
  unfold programChunk
  rw [hoffset, readPayload_eq]
  rfl

/-- WCMD moves no mode, whether it goes on or ends (R135). -/
theorem wcmd_mode (k : Kind) (a : Nat) (payload : List Byte) (t ea : Word) (s : State) :
    (runState (wcmd k a payload t ea s)).mode = s.mode := by
  obtain ⟨-, e⟩ | ⟨-, -, e⟩ | ⟨-, -, -, e⟩ | ⟨-, -, -, -, e⟩ | ⟨-, -, -, -, e⟩ := wcmd_cases k a payload t ea s <;>
    simp [e, runState, failLast, wcmdDone, wcmdIssued, wcmdEnabled, wcmdSent]

theorem programChunk_mode {start : Word} (buf : Word) {s : State} (h : start.toNat ≤ s.spl.cursor.toNat) :
    (runState (programChunk start buf s)).mode = s.mode := by
  have hm := wcmd_mode .pageProgram s.spl.cursor.toNat (chunkBytes start buf s) s.cfg.cat.tProgram s.spl.cursor
    (chunkRead start buf s)
  rw [programChunk_eq buf h]
  generalize wcmd .pageProgram s.spl.cursor.toNat (chunkBytes start buf s) s.cfg.cat.tProgram s.spl.cursor
    (chunkRead start buf s) = r at hm ⊢
  cases r <;> exact hm

/-- The four events of a chunk's elementary command (R150). -/
def chunkCalls (start buf : Word) (s : State) : List Event :=
  wcmdTrace s.cfg.cat .pageProgram s.spl.cursor.toNat (chunkBytes start buf s) s.cfg.cat.tProgram

/-- A PROGRAM between two chunks: the splitter's registers, ESTATE and MODE (R21, R135, R150). -/
structure BetweenChunks (start length : Word) (s : State) : Prop where
  split : SplitAt start length s
  estate : s.estate = .idle
  indirect : s.mode = .indirect

/-- A pass appends its payload reads and its four calls, or stops at the first call not answered OK (R150, R154). -/
theorem programChunk_cases {start length : Word} (buf : Word) {s : State} (h : BetweenChunks start length s) :
    (∃ u, programChunk start buf s = .going u ∧
      u.trace = (chunkRead start buf s).trace ++ chunkCalls start buf s ∧ u.estate = .idle ∧ u.cfg = s.cfg ∧
      u.spl = (advanceChunk s).spl) ∨
    ∃ u n e r, programChunk start buf s = .ended u ∧
      StoppedAt (chunkRead start buf s) (chunkCalls start buf s) s.spl.cursor u n e r := by
  rw [programChunk_eq buf h.split.first]
  obtain ⟨v, hv, ht, he, -⟩ | ⟨v, n, e, r, hv, hstop⟩ := elementaryCommandCalls .pageProgram s.spl.cursor.toNat
    (chunkBytes start buf s) s.cfg.cat.tProgram s.spl.cursor (chunkRead start buf s) h.estate
  · obtain ⟨hc, hs, -⟩ := wcmd_going hv
    refine .inl ⟨advanceChunk v, by rw [hv, andThen_going], ht, he, hc, ?_⟩
    rw [advanceChunk_spl, hs, hc]
    rfl
  · exact .inr ⟨v, n, e, r, by rw [hv, andThen_ended], hstop⟩

/-- A pass that goes on. -/
theorem BetweenChunks.going {start length buf : Word} {s u : State} (h : BetweenChunks start length s)
    (hu : programChunk start buf s = .going u) :
    u.trace = (chunkRead start buf s).trace ++ chunkCalls start buf s ∧ u.estate = .idle ∧ u.cfg = s.cfg ∧
      u.spl = (advanceChunk s).spl := by
  obtain ⟨v, hv, hgo⟩ | ⟨v, n, e, r, hv, -⟩ := programChunk_cases buf h <;> rw [hu] at hv <;> cases hv
  exact hgo

/-- A pass that ends the request. -/
theorem BetweenChunks.ended {start length buf : Word} {s u : State} (h : BetweenChunks start length s)
    (hu : programChunk start buf s = .ended u) :
    u.mode = .indirect ∧ ∃ n e r, StoppedAt (chunkRead start buf s) (chunkCalls start buf s) s.spl.cursor u n e r := by
  have hm := programChunk_mode buf h.split.first
  rw [hu] at hm
  obtain ⟨v, hv, -⟩ | ⟨v, n, e, r, hv, hstop⟩ := programChunk_cases buf h <;> rw [hu] at hv <;> cases hv
  exact ⟨hm.trans h.indirect, n, e, r, hstop⟩

theorem BetweenChunks.next {start length buf : Word} {s u : State} (h : BetweenChunks start length s)
    (hu : programChunk start buf s = .going u) : BetweenChunks start length u := by
  have hm := programChunk_mode buf h.split.first
  rw [hu] at hm
  obtain ⟨-, he, hc, hs⟩ := h.going hu
  exact ⟨h.split.advance.of_eq hc hs, he, hm.trans h.indirect⟩

/-! ## The chunks programmed so far (R150) -/

/-- The chunk at CURSOR. -/
def chunkAt (s : State) : Nat × Nat := (s.spl.cursor.toNat, s.spl.chunk.toNat)

/-- The chunks of what is left of the range. -/
def chunksLeft (s : State) : List (Nat × Nat) :=
  chunkList s.cfg.geom.pageSize.toNat s.spl.cursor.toNat s.spl.remain.toNat

/-- From `s` the loop of R150 programmed these chunks, every call answered OK, and came to `u`. -/
inductive Programs (start buf : Word) : State → List (Nat × Nat) → State → Prop where
  | nil (s : State) : Programs start buf s [] s
  | cons {s t u : State} {cs : List (Nat × Nat)} (left : s.spl.remain ≠ 0)
      (chunk : programChunk start buf s = .going t) (rest : Programs start buf t cs u) :
      Programs start buf s (chunkAt s :: cs) u

theorem chunksLeft_of_remain_eq_zero {s : State} (h : s.spl.remain = 0) : chunksLeft s = [] := by
  rw [chunksLeft, h]
  rfl

/-- The chunk at CURSOR is the first of what is left. -/
theorem SplitAt.chunksLeft_eq {start length : Word} {s : State} (h : SplitAt start length s) (hr : s.spl.remain ≠ 0) :
    chunksLeft s = chunkAt s :: chunksLeft (advanceChunk s) := by
  have hne : s.spl.remain.toNat ≠ 0 := fun h0 => hr (BitVec.eq_of_toNat_eq h0)
  rw [chunksLeft, chunkList_of_ne_zero h.page hne, ← h.chunk, ← h.cursor_add, ← h.remain_sub]
  rfl

theorem BetweenChunks.chunksLeft_next {start length buf : Word} {s u : State} (h : BetweenChunks start length s)
    (hu : programChunk start buf s = .going u) : chunksLeft u = chunksLeft (advanceChunk s) := by
  obtain ⟨-, -, hc, hs⟩ := h.going hu
  rw [chunksLeft, hc, hs]
  rfl

/-- The loop programs all the chunks that are left, or ends in one of them (R150, R154). -/
theorem programLoop_cases {start length : Word} (buf : Word) (n : Nat) {s : State} (h : BetweenChunks start length s)
    (hn : s.spl.remain.toNat ≤ n) :
    (∃ u, programLoop start buf n s = .going u ∧ Programs start buf s (chunksLeft s) u ∧ u.spl.remain = 0) ∨
      ∃ j u v, programLoop start buf n s = .ended v ∧ Programs start buf s ((chunksLeft s).take j) u ∧
        (chunksLeft s)[j]? = some (chunkAt u) ∧ u.spl.remain ≠ 0 ∧ programChunk start buf u = .ended v := by
  have hdone {s : State} (h0 : s.spl.remain = 0) : Programs start buf s (chunksLeft s) s :=
    chunksLeft_of_remain_eq_zero h0 ▸ .nil s
  induction n generalizing s with
  | zero =>
    have h0 : s.spl.remain = 0 := BitVec.eq_of_toNat_eq (Nat.le_zero.1 hn)
    exact .inl ⟨s, rfl, hdone h0, h0⟩
  | succ n ih =>
    unfold programLoop
    split_ifs with hr
    · exact .inl ⟨s, rfl, hdone hr, hr⟩
    rw [h.split.chunksLeft_eq hr]
    cases hchunk : programChunk start buf s with
    | going t =>
      obtain ⟨-, -, -, hs⟩ := h.going hchunk
      have hpos := h.split.chunk_pos hr
      have hrest : t.spl.remain.toNat ≤ n := by
        rw [hs, advanceChunk_spl, h.split.remain_sub]
        omega
      rw [andThen_going, ← h.chunksLeft_next hchunk]
      obtain ⟨u, hu, hp, h0⟩ | ⟨j, u, v, hv, hp, hj, hleft, hend⟩ := ih (h.next hchunk) hrest
      · exact .inl ⟨u, hu, .cons hr hchunk hp, h0⟩
      · exact .inr ⟨j + 1, u, v, hv, .cons hr hchunk hp, hj, hleft, hend⟩
    | ended v => exact .inr ⟨0, s, v, rfl, .nil s, rfl, hr, hchunk⟩

section
variable {start length buf : Word} {s u : State} {cs : List (Nat × Nat)}

theorem Programs.between (hp : Programs start buf s cs u) (h : BetweenChunks start length s) :
    BetweenChunks start length u := by
  induction hp with
  | nil => exact h
  | cons _ chunk _ ih => exact ih (h.next chunk)

theorem programChunk_steps (h : programChunk start buf s = .going u) : Steps false s u := by
  have hs := steps_programChunk (b := false) start buf s
  rwa [h] at hs

theorem Programs.steps (hp : Programs start buf s cs u) : Steps false s u := by
  induction hp with
  | nil => exact .refl
  | cons _ chunk _ ih => exact (programChunk_steps chunk).trans ih

theorem Programs.cfg (hp : Programs start buf s cs u) : u.cfg = s.cfg := (extends_of_steps hp.steps).cfg

theorem Programs.host (hp : Programs start buf s cs u) : u.host = s.host := (keepsHost_of_steps hp.steps).host

/-- The events of the chunks programmed (R150). -/
theorem Programs.trace (hp : Programs start buf s cs u) (h : BetweenChunks start length s) :
    u.trace = s.trace ++ programTrace s.cfg.cat s.host.ram buf start.toNat cs := by
  induction hp with
  | nil => simp [programTrace]
  | @cons s t u cs _ chunk _ ih =>
    obtain ⟨ht, -, hc, -⟩ := h.going chunk
    rw [ih (h.next chunk), ht, hc, (keepsHost_of_steps (programChunk_steps chunk)).host]
    simp only [chunkRead, chunkCalls, chunkBytes, programTrace, chunkAt, List.flatMap_cons, List.append_assoc]

/-! ### Calls that the environment answers OK -/

/-- The calls of `n` chunks. -/
def chunksCalls (cat : Catalog) (n : Nat) : List Call := (List.replicate n (wcmdCalls cat cat.tProgram)).flatten

theorem chunksCalls_add (cat : Catalog) (m n : Nat) :
    chunksCalls cat (m + n) = chunksCalls cat m ++ chunksCalls cat n := by
  rw [chunksCalls, List.replicate_add, List.flatten_append]
  rfl

theorem chunksCalls_one (cat : Catalog) : chunksCalls cat 1 = wcmdCalls cat cat.tProgram := by simp [chunksCalls]

theorem programChunk_of_obliges {calls : List Call} (h : BetweenChunks start length s)
    (ho : obliges (chunksCalls s.cfg.cat 1 ++ calls) s.dev.script = true) :
    ∃ t, programChunk start buf s = .going t ∧ obliges calls t.dev.script = true := by
  rw [chunksCalls_one] at ho
  obtain ⟨hok, hcalls⟩ := wcmdOk_of_obliges (s := chunkRead start buf s) ho .pageProgram s.spl.cursor.toNat
    (chunkBytes start buf s)
  refine ⟨_, by rw [programChunk_eq buf h.split.first, hok.eq_going, andThen_going], ?_⟩
  rwa [advanceChunk_dev, setEState_dev]

theorem Programs.obliges_left {calls : List Call} (hp : Programs start buf s cs u) (h : BetweenChunks start length s)
    (ho : obliges (chunksCalls s.cfg.cat cs.length ++ calls) s.dev.script = true) :
    obliges calls u.dev.script = true := by
  induction hp with
  | nil => exact ho
  | @cons s t u cs _ chunk _ ih =>
    rw [List.length_cons, Nat.add_comm, chunksCalls_add, List.append_assoc] at ho
    obtain ⟨t', ht', hcalls⟩ := programChunk_of_obliges h ho
    obtain rfl := Run.going.inj (chunk.symm.trans ht')
    obtain ⟨-, -, hc, -⟩ := h.going chunk
    exact ih (h.next chunk) (hc ▸ hcalls)

/-! ### The bytes of the chunks (R151) -/

theorem Programs.cursor_le (hp : Programs start buf s cs u) (h : BetweenChunks start length s) :
    s.spl.cursor.toNat ≤ u.spl.cursor.toNat := by
  induction hp with
  | nil => exact Nat.le_refl _
  | cons _ chunk _ ih =>
    obtain ⟨-, -, -, hs⟩ := h.going chunk
    refine Nat.le_trans ?_ (ih (h.next chunk))
    rw [hs, advanceChunk_spl, h.split.cursor_add]
    exact Nat.le_add_right _ _

end

theorem wcmdOk_of_going {k : Kind} {a : Nat} {payload : List Byte} {t ea : Word} {s u : State}
    (h : wcmd k a payload t ea s = .going u) :
    WcmdOk k a payload t s ∧ u = setEState .idle (wcmdDone k a payload t s) := by
  obtain ⟨-, e⟩ | ⟨-, -, e⟩ | ⟨-, -, -, e⟩ | ⟨-, -, -, -, e⟩ | ⟨h1, h2, h3, h4, e⟩ :=
    wcmd_cases k a payload t ea s <;> rw [h] at e
  case inr.inr.inr.inr => exact ⟨⟨h1, h2, h3, h4⟩, Run.going.inj e⟩
  all_goals cases e

theorem keepsFlash_of_steps {b : Bool} {s t : State} (h : Steps b s t) : KeepsFlash s t := by
  induction h with
  | refl => exact .refl s
  | tail _ hp ih => exact ih.trans (keepsFlash_of_prim hp)

theorem wcmdIssued_dev (k : Kind) (a : Nat) (payload : List Byte) (s : State) : (wcmdIssued k a payload s).dev =
    consumeDraw (deviceSend s.cfg (wcmdIssued k a payload s).seq.ret (encodeCmd s.cfg.cat k a payload)
      (wcmdEnabled s).dev) := by
  have hcfg : (wcmdEnabled s).cfg = s.cfg := by simp [wcmdEnabled, wcmdSent]
  simp only [wcmdIssued, sendOp_dev, sendOp_seq, encodeOp_dev, encodeOp_seq, encodeOp_cfg, setEState_dev,
    setEState_cfg, hcfg]

theorem wcmdDone_dev (k : Kind) (a : Nat) (payload : List Byte) (t : Word) (s : State) :
    (wcmdDone k a payload t s).dev = consumeDraw (devicePoll s.cfg (wcmdDone k a payload t s).seq.ret
      (wipWait s.cfg.cat t) (wcmdDone k a payload t s).pol (wcmdIssued k a payload s).dev) := by
  simp only [wcmdDone, pollOp_dev, pollOp_seq, pollOp_pol, setEState_dev, setEState_cfg, wcmdIssued_cfg]

/-- After a program or erase in geometry on an idle device no command is unfinished (R66, R67). -/
theorem WcmdOk.inflight {k : Kind} {a : Nat} {payload : List Byte} {t : Word} {s : State} {runs : List (Nat × Nat)}
    (h : WcmdOk k a payload t s) (hw : s.cfg.wf = true) (hidle : s.dev.busy = .idle)
    (hruns : commandRuns s.cfg (encodeCmd s.cfg.cat k a payload) = some runs) (hgeom : inGeometry s.cfg runs = true) :
    (wcmdDone k a payload t s).dev.inflight = [] := by
  obtain ⟨henabled, hset⟩ := wcmdEnabled_leaves hw hidle h.enabled
  have haccepted : accepted s.cfg .ok runs (wcmdEnabled s).dev = true := by
    simp [accepted, specified, henabled.idle, hset, hgeom]
  rw [wcmdDone_dev, h.done, wcmdIssued_dev, h.issued]
  simp [devicePoll, isWipWait_wipWait, deviceSend, hruns, haccepted]

theorem commandRuns_pageProgram {cfg : Cfg} (hw : cfg.wf = true) {c : Nat} (hc : c < 2 ^ (8 * cfg.cat.addressBytes))
    (payload : List Byte) : commandRuns cfg (encodeCmd cfg.cat .pageProgram c payload) =
      some (pageRuns cfg.geom.pageSize.toNat c payload.length) := by
  have hruns : commandRuns cfg (encodeCmd cfg.cat .pageProgram c payload) = some (pageRuns cfg.geom.pageSize.toNat
      (encodeCmd cfg.cat .pageProgram c payload).w1.toNat payload.length) := rfl
  rwa [encodeCmd_w1_of_lt hw rfl hc] at hruns

/-- WCMD with a PAGE_PROGRAM that fits its page, on erased bytes of an idle device (R66, R67, R151). -/
theorem WcmdOk.leaves_payload {c : Nat} {payload : List Byte} {t : Word} {s : State}
    (h : WcmdOk .pageProgram c payload t s) (hw : s.cfg.wf = true) (hidle : s.dev.busy = .idle)
    (hpage : payload.length ≤ s.cfg.geom.pageSize.toNat - c % s.cfg.geom.pageSize.toNat)
    (hgeom : c + payload.length ≤ s.cfg.geom.totalSize.toNat) (hwidth : c < 2 ^ (8 * s.cfg.cat.addressBytes))
    (herased : ∀ x, c ≤ x → x < c + payload.length → flashByte s.dev x = s.cfg.geom.eraseValue) :
    (wcmdDone .pageProgram c payload t s).dev.inflight = [] ∧
      LeavesBytes (fun x => if c ≤ x ∧ x < c + payload.length then payload.getD (x - c) 0 else flashByte s.dev x)
        s (wcmdDone .pageProgram c payload t s) := by
  have hruns := commandRuns_pageProgram hw hwidth payload
  have hin := inGeometry_pageRuns hpage hgeom
  obtain ⟨epoch, m, hm, hleaves⟩ := h.leaves hw hidle hruns hin
  refine ⟨h.inflight hw hidle hruns hin, hleaves.congr fun x => ?_⟩
  refine ite_congr (propext (inRuns_pageRuns hpage x)) (fun hx => ?_) fun _ => rfl
  exact resultByte_pageProgram (encodeCmd_w1_of_lt hw rfl hwidth _) hpage hx ((hm x).trans (herased x hx.1 hx.2))

theorem bufferBytes_getD (ram : List Host.Cell) (buf : Word) (first : Nat) {n j : Nat} (h : j < n) :
    (bufferBytes ram buf first n).getD j 0 = bufferByte ram buf (first + j) := by
  simp [bufferBytes, List.getD_eq_getElem?_getD, h]

section
variable {start length buf : Word} {s u : State} {cs : List (Nat × Nat)}

/-- Where the chunk at CURSOR stands: in its page, the range, the device and the address width. -/
theorem Programmable.chunk_bounds (hp : Programmable start length s) (hr : s.spl.remain ≠ 0) :
    (chunkBytes start buf s).length ≤ s.cfg.geom.pageSize.toNat - s.spl.cursor.toNat % s.cfg.geom.pageSize.toNat ∧
      s.spl.cursor.toNat + (chunkBytes start buf s).length ≤ start.toNat + length.toNat ∧
      s.spl.cursor.toNat + (chunkBytes start buf s).length ≤ s.cfg.geom.totalSize.toNat ∧
      s.spl.cursor.toNat < 2 ^ (8 * s.cfg.cat.addressBytes) := by
  have hpos := hp.split.chunk_pos hr
  have hchunk := hp.split.chunk
  have hlast := hp.split.last
  have hgeom := hp.geom
  have hwidth := hp.width
  rw [chunkBytes_length]
  omega

/-- A chunk programmed leaves no command unfinished and its buffer bytes in the erased range (R151). -/
theorem Programmable.chunk_leaves (hp : Programmable start length s) (hr : s.spl.remain ≠ 0)
    (hu : programChunk start buf s = .going u) :
    u.dev.inflight = [] ∧
      LeavesBytes (programmed s start buf s.spl.cursor.toNat (s.spl.cursor.toNat + s.spl.chunk.toNat)) s u := by
  have hfirst := hp.split.first
  obtain ⟨hpage, hrange, hgeom, hwidth⟩ := hp.chunk_bounds (buf := buf) hr
  rw [programChunk_eq buf hfirst] at hu
  obtain ⟨v, hv, hadvance⟩ := andThen_eq_going.1 hu
  obtain rfl := Run.going.inj hadvance
  obtain ⟨hok, rfl⟩ := wcmdOk_of_going hv
  obtain ⟨hnone, hleaves⟩ := hok.leaves_payload hp.wf hp.idle hpage hgeom hwidth
    fun x hx hlt => hp.erased x hx (hlt.trans_le hrange)
  generalize wcmdDone .pageProgram s.spl.cursor.toNat (chunkBytes start buf s) s.cfg.cat.tProgram
    (chunkRead start buf s) = v at hnone hleaves
  obtain ⟨hcfg, hhost, hidle, hbyte⟩ := hleaves
  refine ⟨by simpa using hnone, by simpa using hcfg, by simpa using hhost, by simpa using hidle, fun x => ?_⟩
  rw [advanceChunk_dev, setEState_dev, hbyte, chunkBytes_length]
  refine ite_congr rfl (fun hx => ?_) fun _ => rfl
  have hindex : s.spl.cursor.toNat - start.toNat + (x - s.spl.cursor.toNat) = x - start.toNat := by omega
  rw [chunkBytes, bufferBytes_getD _ _ _ (by omega), hindex]

/-- Chunks programmed in an erased range of an idle device leave their buffer bytes, and no command unfinished. -/
theorem Programs.leaves (hp : Programs start buf s cs u) (h : BetweenChunks start length s)
    (hprog : Programmable start length s) :
    (u = s ∨ u.dev.inflight = []) ∧ Programmable start length u ∧
      LeavesBytes (programmed s start buf s.spl.cursor.toNat u.spl.cursor.toNat) s u := by
  induction hp with
  | nil s =>
    refine ⟨.inl rfl, hprog, (LeavesBytes.refl hprog.idle).congr fun x => ?_⟩
    rw [programmed, if_neg (by omega)]
  | @cons s t u cs hr chunk rest ih =>
    obtain ⟨hdone, hfirst⟩ := hprog.chunk_leaves hr chunk
    obtain ⟨-, -, -, hs⟩ := h.going chunk
    obtain ⟨hsettled, hprog', hrest⟩ := ih (h.next chunk) (hprog.next hs hfirst)
    have hle := rest.cursor_le (h.next chunk)
    rw [hs, advanceChunk_spl, h.split.cursor_add] at hrest hle
    refine ⟨.inr (hsettled.elim (fun e => e ▸ hdone) id), hprog', ?_⟩
    exact (hfirst.trans hrest).congr (programmed_append hfirst (Nat.le_add_right _ _) hle)

/-- A chunk that failed changes no settled byte before it (R34, R154). -/
theorem Programmable.failed_keeps (hp : Programmable start length s) (h : BetweenChunks start length s)
    (hr : s.spl.remain ≠ 0) (hu : programChunk start buf s = .ended u) {x : Nat} (hx : x < s.spl.cursor.toNat)
    (hsettled : unsettled s.dev x = false) : flashByte u.dev x = flashByte s.dev x := by
  obtain ⟨-, n, e, r, he, hne, -, htrace, -⟩ := h.ended hu
  have hsteps := steps_programChunk (b := false) start buf s
  rw [hu] at hsteps
  obtain ⟨-, new, hnew, hkeep⟩ := keepsFlash_of_steps hsteps
  obtain rfl : bufferReads s.host.ram buf (s.spl.cursor.toNat - start.toNat) s.spl.chunk.toNat ++
      ((chunkCalls start buf s).take n ++ [withAnswer e r]) = new := by
    refine List.append_cancel_left (as := s.trace) (Eq.trans ?_ hnew)
    simp [runState, htrace, chunkRead]
  refine (hkeep x hsettled fun cmd answer runs hm hspan => ?_).1
  obtain hm | hm := List.mem_append.1 hm
  · simp [bufferReads] at hm
  have hcut : CutShort (chunkCalls start buf s) ((chunkCalls start buf s).take n ++ [withAnswer e r]) :=
    ⟨n, e, r, he, hne, rfl⟩
  obtain ⟨hpage, -, hgeom, hwidth⟩ := hp.chunk_bounds (buf := buf) hr
  obtain rfl | rfl := hcut.wcmdEvent hm
  · cases hspan
  · rw [commandSpan, commandRuns_pageProgram hp.wf hwidth, Option.map_some, spanOf,
      if_pos (inGeometry_pageRuns hpage hgeom)] at hspan
    obtain rfl := Option.some.inj hspan
    refine Bool.eq_false_iff.2 fun hin => ?_
    have := (inRuns_pageRuns hpage x).1 hin
    omega

end

/-! ## The whole PROGRAM (R150) -/

/-- `u` is `s` after EnsureIndirect, its ABORT answered OK where one was needed (R181, R183). -/
structure ToIndirect (s u : State) : Prop where
  mode : u.mode = .indirect
  cfg : u.cfg = s.cfg
  host : u.host = s.host
  trace : u.trace = s.trace ++ toggleTrace s.cfg.cat .indirect s.mode
  busy : u.dev.busy = s.dev.busy
  byte : ∀ x, flashByte u.dev x = flashByte s.dev x
  script : ∀ calls, obliges (toggleCalls .indirect s.mode ++ calls) s.dev.script = true →
    obliges calls u.dev.script = true

theorem toIndirect_of_going {ea : Word} {s u : State} (h : ensureIndirect ea s = .going u) : ToIndirect s u := by
  obtain ⟨hm, e⟩ | ⟨hm, ha, e⟩ | ⟨-, -, e⟩ := ensureIndirect_cases ea s <;> rw [h] at e <;> cases e
  · exact ⟨hm, rfl, rfl, by simp [toggleTrace, hm], rfl, fun _ => rfl, fun _ ho => by rwa [hm] at ho⟩
  · refine ⟨abortOp_mode_of_ok ha, rfl, rfl, by simp [toggleTrace, hm, ha], rfl, fun _ => rfl, fun _ ho => ?_⟩
    rw [hm] at ho
    exact (callAnswer_of_obliges ho).2

theorem ensureIndirect_ended {ea : Word} {s u : State} (h : ensureIndirect ea s = .ended u) :
    s.mode = .mapped ∧ callAnswer (nextDraw s.dev) = .busError ∧ u = fail .busError ea (abortOp s) := by
  obtain ⟨-, e⟩ | ⟨-, -, e⟩ | ⟨hm, ha, e⟩ := ensureIndirect_cases ea s <;> rw [h] at e <;> cases e
  exact ⟨hm, ha, rfl⟩

theorem ToIndirect.of_accept {op : BitVec 4} {s u : State} (h : ToIndirect (accept op s) u) : ToIndirect s u := by
  obtain ⟨hm, hc, hh, ht, hb, hx, hs⟩ := h
  simp only [accept_mode, accept_cfg, accept_host, accept_trace, accept_dev] at hc hh ht hb hx hs
  exact ⟨hm, hc, hh, ht, hb, hx, hs⟩

/-- `u` is `s` at the loop of a PROGRAM: accepted, in INDIRECT, the splitter's registers set (R150, R183, R225). -/
structure ProgramStarts (start length : Word) (s u : State) : Prop extends ToIndirect s u where
  between : BetweenChunks start length u
  cursor : u.spl.cursor = start
  remain : u.spl.remain = length

/-- How a PROGRAM of `length ≥ 1` can end: in its ABORT, after all of its chunks, or in one of them (R150, R154). -/
inductive ProgramOutcome (start length buf : Word) (s : State) : State → Prop where
  | abortFailed (mapped : s.mode = .mapped) (answer : callAnswer (nextDraw s.dev) = .busError) :
      ProgramOutcome start length buf s (fail .busError start (abortOp (accept 2 s)))
  | done {u v : State} (starts : ProgramStarts start length s u) (chunks : Programs start buf u (chunksLeft u) v)
      (nothingLeft : v.spl.remain = 0) : ProgramOutcome start length buf s (respond okResponse v)
  | failed {u v t : State} {j : Nat} (starts : ProgramStarts start length s u)
      (chunks : Programs start buf u ((chunksLeft u).take j) v) (here : (chunksLeft u)[j]? = some (chunkAt v))
      (left : v.spl.remain ≠ 0) (chunk : programChunk start buf v = .ended t) : ProgramOutcome start length buf s t

section
variable {start length buf : Word} {s : State}

/-- The loop of a PROGRAM that has started. -/
theorem ProgramStarts.outcome {u : State} (h : ProgramStarts start length s u) :
    ProgramOutcome start length buf s (finish (programLoop start buf length.toNat u) (respond okResponse)) := by
  obtain ⟨v, e, hp, h0⟩ | ⟨j, v, t, e, hp, hj, hleft, hend⟩ :=
    programLoop_cases buf length.toNat h.between (by rw [h.remain]) <;> rw [e]
  · exact .done h hp h0
  · exact .failed h hp hj hleft hend

theorem programStarts_of_going {u : State} (hw : s.cfg.wf = true) (hfit : start.toNat + length.toNat ≤ 2 ^ 32 - 1)
    (hu : ensureIndirect start (accept 2 s) = .going u) :
    ProgramStarts start length s (splitStart start length u) := by
  have htoggle := (toIndirect_of_going hu).of_accept
  have hfollows := follows_ensureIndirect (i := .program start length 0) (by simp) (accept_estate 2 s) start
  rw [hu] at hfollows
  have hpage := pageSize_pos (htoggle.cfg ▸ hw)
  obtain ⟨hm, hc, hh, ht, hb, hx, hs⟩ := htoggle
  exact ⟨⟨hm, hc, hh, ht, hb, hx, hs⟩, ⟨splitAt_splitStart hpage hfit, hfollows.idle, hm⟩, rfl, rfl⟩

theorem programBody_outcome (buf : Word) (hw : s.cfg.wf = true) (hfit : start.toNat + length.toNat ≤ 2 ^ 32 - 1)
    (hlen : length ≠ 0) : ProgramOutcome start length buf s (programBody start length buf (accept 2 s)) := by
  rw [programBody, if_neg hlen]
  cases hu : ensureIndirect start (accept 2 s) with
  | going u => exact (programStarts_of_going hw hfit hu).outcome
  | ended u =>
    obtain ⟨hm, ha, rfl⟩ := ensureIndirect_ended hu
    rw [accept_mode] at hm
    rw [accept_dev] at ha
    exact .abortFailed hm ha

theorem ProgramStarts.chunksLeft_eq {u : State} (h : ProgramStarts start length s u) :
    chunksLeft u = chunkList s.cfg.geom.pageSize.toNat start.toNat length.toNat := by
  rw [chunksLeft, h.cfg, h.cursor, h.remain]

/-- Before the loop the whole range can be programmed. -/
theorem ProgramStarts.programmable {u : State} (h : ProgramStarts start length s u) (hw : s.cfg.wf = true)
    (hidle : s.dev.busy = .idle) (hgeom : start.toNat + length.toNat ≤ s.cfg.geom.totalSize.toNat)
    (hwidth : start.toNat + length.toNat ≤ 2 ^ (8 * s.cfg.cat.addressBytes))
    (herased : ∀ i, i < length.toNat → flashByte s.dev (start.toNat + i) = s.cfg.geom.eraseValue) :
    Programmable start length u := by
  refine ⟨h.between.split, h.cfg ▸ hw, h.busy.trans hidle, h.cfg ▸ hgeom, h.cfg ▸ hwidth, fun x hx hlt => ?_⟩
  rw [h.cursor] at hx
  rw [h.byte, h.cfg, ← herased (x - start.toNat) (by omega), Nat.add_sub_cancel' hx]

theorem ProgramStarts.programmed {u : State} (h : ProgramStarts start length s u) (hi x : Nat) :
    programmed u start buf start.toNat hi x = Machine.programmed s start buf start.toNat hi x := by
  rw [Machine.programmed, h.host, h.byte]
  rfl

/-- A PROGRAM whose calls are all answered OK ends after its last chunk. -/
theorem ProgramOutcome.done_of_obliges {t : State} (h : ProgramOutcome start length buf s t)
    (ho : obliges (toggleCalls .indirect s.mode ++ chunksCalls s.cfg.cat
      (chunkList s.cfg.geom.pageSize.toNat start.toNat length.toNat).length) s.dev.script = true) :
    ∃ u v, ProgramStarts start length s u ∧ Programs start buf u (chunksLeft u) v ∧ v.spl.remain = 0 ∧
      t = respond okResponse v := by
  cases h with
  | abortFailed hm ha =>
    rw [hm] at ho
    cases ha.symm.trans (callAnswer_of_obliges ho).1
  | done hs hp h0 => exact ⟨_, _, hs, hp, h0, rfl⟩
  | @failed u v t j hs hp hj hleft hend =>
    have hlt : j < (chunksLeft u).length := (List.getElem?_eq_some_iff.1 hj).1
    have hsum : (chunksLeft u).length = ((chunksLeft u).take j).length + (1 + ((chunksLeft u).length - j - 1)) := by
      rw [List.length_take]
      omega
    have hcalls := hs.script _ ho
    rw [← hs.chunksLeft_eq, hsum, chunksCalls_add, chunksCalls_add, ← hs.cfg] at hcalls
    have hhere := hp.obliges_left hs.between hcalls
    rw [← hp.cfg] at hhere
    obtain ⟨w, hw, -⟩ := programChunk_of_obliges (hp.between hs.between) hhere
    cases hend.symm.trans hw

/-- Nothing is left when CURSOR stands at the end of the range. -/
theorem SplitAt.cursor_eq (h : SplitAt start length s) (h0 : s.spl.remain = 0) : s.spl.cursor = start + length := by
  have hlast := h.last
  have hfit := h.fits
  rw [h0] at hlast
  refine BitVec.eq_of_toNat_eq ?_
  rw [BitVec.toNat_add, Nat.mod_eq_of_lt (by omega), ← hlast]
  rfl

end

/-- A PROGRAM whose calls are all answered OK runs its loop to the end. -/
theorem exec_program_of_obliges {s : State} {start length : Word} (buf : Word) (hready : s.Ready start length)
    (hlen : length ≠ 0)
    (ho : obliges (toggleCalls .indirect s.mode ++ chunksCalls s.cfg.cat
      (chunkList s.cfg.geom.pageSize.toNat start.toNat length.toNat).length) s.dev.script = true) :
    ∃ u v, ProgramStarts start length s u ∧ Programs start buf u (chunksLeft u) v ∧ v.spl.remain = 0 ∧
      exec (.program start length buf) s = .next (respond okResponse v) := by
  obtain ⟨hw, hinit, hfit⟩ := hready
  obtain ⟨u, v, hs, hp, h0, e⟩ := (programBody_outcome buf hw hfit hlen).done_of_obliges ho
  exact ⟨u, v, hs, hp, h0, by rw [exec_program, runRequest_of_extent hw hinit hfit, e]⟩

/-- Settles O24: the loop programs all the chunks, each appending its reads and its four calls. -/
theorem programIssuesItsChunks : Obligations.ProgramIssuesItsChunks := by
  intro s start length buf hready hlen chunks ho
  obtain ⟨u, v, hs, hp, h0, hx⟩ := exec_program_of_obliges buf hready hlen ho
  have hv := hp.between hs.between
  obtain ⟨-, hinit, -⟩ := hready
  refine ⟨_, hx, respond_rsp _ v, ?_, (respond_mode _ v).trans hv.indirect, respond_estate _ v, respond_curOp _ v,
    ((exec_keepsHost hx).initDone rfl).trans hinit, ?_, ?_⟩
  · rw [respond_trace, hp.trace hs.between, hs.trace, hs.cfg, hs.host, hs.chunksLeft_eq]
  · rw [respond_spl, hv.split.cursor_eq h0]
  · rw [respond_spl, h0]

/-- Settles O25: each chunk leaves its buffer bytes, and the last one no command unfinished. -/
theorem programWritesItsRange : Obligations.ProgramWritesItsRange := by
  intro s start length buf hready hlen chunks ho hidle hgeom hwidth herased
  obtain ⟨u, v, hs, hp, h0, hx⟩ := exec_program_of_obliges buf hready hlen ho
  obtain ⟨hw, -, -⟩ := hready
  obtain ⟨hsettled, -, hleaves⟩ := hp.leaves hs.between (hs.programmable hw hidle hgeom hwidth herased)
  have hlast := (hp.between hs.between).split.last
  have hcursor : v.spl.cursor.toNat = start.toNat + length.toNat := by
    rw [h0] at hlast
    exact hlast
  have hbyte (x : Nat) : flashByte v.dev x = programmed s start buf start.toNat (start.toNat + length.toNat) x := by
    rw [hleaves.byte, hs.cursor, hcursor, hs.programmed]
  refine ⟨_, hx, ?_, ?_, fun i hi => ?_, fun a ha => ?_⟩ <;> rw [respond_dev]
  · refine hsettled.resolve_left fun heq => hlen ?_
    rw [← hs.remain, ← heq, h0]
  · exact hleaves.idle
  · rw [hbyte, programmed, if_pos (by omega), Nat.add_sub_cancel_left]
  · rw [hbyte, programmed, if_neg (by omega)]

theorem length_ne_zero_of_failed {start length buf : Word} {s : State}
    (h : (programBody start length buf s).rsp.status ≠ .ok) : length ≠ 0 := by
  rintro rfl
  rw [programBody, if_pos rfl, respond_rsp] at h
  exact h rfl

/-- Settles O43: the request ends in its ABORT, or in the chunk where `programLoop_cases` ends, whose calls
`BetweenChunks.ended` lists. -/
theorem failedProgramReportsItsChunk : Obligations.FailedProgramReportsItsChunk := by
  intro s t start length buf hx hst chunks
  obtain ⟨hr, rfl⟩ := runRequest_eq_next.1 hx
  obtain ⟨hw, -, hfit⟩ := requestRefusal_eq_none.1 hr
  have hout := programBody_outcome buf hw hfit (length_ne_zero_of_failed hst)
  generalize programBody start length buf (accept 2 s) = t at hst hout
  cases hout with
  | abortFailed hm ha =>
    refine .inl ⟨hm, ?_, ?_, ?_⟩
    · simp [ha]
    · simp [ha, hm]
    · rw [fail_rsp]
      rfl
  | done => exact absurd (by rw [respond_rsp]; rfl) hst
  | @failed u v t j hs hp hj hleft hend =>
    have hv := hp.between hs.between
    have hcfg : v.cfg = s.cfg := hp.cfg.trans hs.cfg
    have hhost : v.host = s.host := hp.host.trans hs.host
    obtain ⟨hmode, n, e, r, he, hne, htimeout, htrace, -, -, -, hrsp⟩ := hv.ended hend
    rw [hs.chunksLeft_eq] at hj hp
    simp only [chunkCalls, chunkBytes, hcfg, hhost] at he htrace
    refine .inr ⟨j, chunkAt v, n, e, r, hj, ⟨he, hne, htimeout, ?_, hmode, ?_, ?_⟩,
      fun hidle hgeom hwidth herased i hi => ?_⟩
    · rw [htrace, chunkRead, hp.trace hs.between, hs.trace, hs.cfg, hs.host, hhost]
      rfl
    · rw [hrsp]
    · rw [hrsp]
      rfl
    · obtain ⟨hsettled, hprog, hleaves⟩ := hp.leaves hs.between (hs.programmable hw hidle hgeom hwidth herased)
      change start.toNat + i < v.spl.cursor.toNat at hi
      have hnone : v.dev.inflight = [] := by
        refine hsettled.resolve_left fun heq => ?_
        rw [heq, hs.cursor] at hi
        omega
      rw [hprog.failed_keeps hv hleft hend hi (by simp [unsettled, hnone]), hleaves.byte, hs.cursor, hs.programmed,
        programmed, if_pos (by omega), Nat.add_sub_cancel_left]

end Sys2Proof.Machine
end

section
/-! PROOFS of the family 43_erase_sequencer: what an ERASE_RANGE and an ERASE_ALL issue and report (R165 to R168,
R235), and the bytes they leave (R167, R169). -/

namespace Sys2Proof.Machine

/-! ## The mode toggle before an erase (R183) -/

/-- EnsureIndirect with its ABORT, where one is needed, answered OK. -/
theorem toIndirect_of_obliges {calls : List Call} {s : State}
    (ho : obliges (toggleCalls .indirect s.mode ++ calls) s.dev.script = true) (op : BitVec 4) (ea : Word) :
    ∃ u, ensureIndirect ea (accept op s) = .going u ∧ ToIndirect s u ∧ obliges calls u.dev.script = true := by
  cases hu : ensureIndirect ea (accept op s) with
  | going u =>
    have htoggle := (toIndirect_of_going hu).of_accept
    exact ⟨u, rfl, htoggle, htoggle.script calls ho⟩
  | ended u =>
    obtain ⟨hm, ha, -⟩ := ensureIndirect_ended hu
    rw [accept_mode] at hm
    rw [accept_dev] at ha
    rw [hm] at ho
    cases ha.symm.trans (callAnswer_of_obliges ho).1

/-! ## The bytes of one erase command (R169) -/

/-- The flash bytes with `[lo, hi)` erased (R169). -/
def erased (s : State) (lo hi x : Nat) : Byte :=
  if lo ≤ x ∧ x < hi then s.cfg.geom.eraseValue else flashByte s.dev x

theorem resultByte_of_ne_pageProgram {k : Kind} (hk : k ≠ .pageProgram) (cfg : Cfg) (a : Nat) (payload : List Byte)
    (epoch : Nat) (m : List Host.Cell) (x : Nat) :
    resultByte cfg (encodeCmd cfg.cat k a payload) epoch m x = cfg.geom.eraseValue := by
  cases k with
  | pageProgram => exact absurd rfl hk
  | resetEnable | reset | writeEnable | readStatus | sectorErase | chipErase | quadRead | enter4Byte => rfl

/-- WCMD with an erase of `n` bytes from `lo`, in geometry, on an idle device (R66, R67, R169). -/
theorem WcmdOk.erases {k : Kind} {a : Nat} {t : Word} {s : State} {lo n : Nat} (h : WcmdOk k a [] t s)
    (hk : k ≠ .pageProgram) (hw : s.cfg.wf = true) (hidle : s.dev.busy = .idle)
    (hruns : commandRuns s.cfg (encodeCmd s.cfg.cat k a []) = some [(lo, n)])
    (hgeom : lo + n ≤ s.cfg.geom.totalSize.toNat) :
    (wcmdDone k a [] t s).dev.inflight = [] ∧ LeavesBytes (erased s lo (lo + n)) s (wcmdDone k a [] t s) := by
  have hin : inGeometry s.cfg [(lo, n)] = true := by simpa [inGeometry] using hgeom
  obtain ⟨epoch, m, -, hleaves⟩ := h.leaves hw hidle hruns hin
  refine ⟨h.inflight hw hidle hruns hin, hleaves.congr fun x => ?_⟩
  rw [resultByte_of_ne_pageProgram hk, erased]
  exact if_congr (by simp [inRuns]) rfl rfl

/-! ## ERASE_ALL (R168) -/

/-- Settles O30: the mode toggle, then one WCMD with CHIP_ERASE, whose run is the whole device. -/
theorem eraseAllErasesTheDevice : Obligations.EraseAllErasesTheDevice := by
  intro s hw hinit ho
  obtain ⟨u, hu, hto, hcalls⟩ := toIndirect_of_obliges ho 4 0
  rw [← List.append_nil (wcmdCalls _ _), ← hto.cfg] at hcalls
  obtain ⟨hok, -⟩ := wcmdOk_of_obliges hcalls .chipErase 0 []
  have hgo := hok.eq_going 0
  have hx : exec .eraseAll s =
      .next (respond okResponse (setEState .idle (wcmdDone .chipErase 0 [] u.cfg.cat.tChipErase u))) := by
    rw [exec_eraseAll, runRequest_of_extent hw hinit (Nat.zero_le _), eraseAllBody, hu, andThen_going, hgo, finish_going]
  refine ⟨_, hx, respond_rsp _ _, ?_, ?_, respond_estate _ _, respond_curOp _ _,
    ((exec_keepsHost hx).initDone rfl).trans hinit, fun hidle => ?_⟩
  · obtain ⟨v, hv, htrace⟩ | ⟨v, es, hv, -⟩ := wcmd_trace .chipErase 0 [] u.cfg.cat.tChipErase 0 u <;>
      cases hgo.symm.trans hv
    rw [respond_trace, htrace, hto.trace, hto.cfg]
  · have hm := wcmd_mode .chipErase 0 [] u.cfg.cat.tChipErase 0 u
    rw [hgo] at hm
    exact (respond_mode _ _).trans (hm.trans hto.mode)
  · obtain ⟨hnone, -, -, hdone, hbyte⟩ := hok.erases (by decide) (hto.cfg ▸ hw) (hto.busy.trans hidle) rfl
      (Nat.zero_add _).le
    simp only [respond_dev, setEState_dev]
    refine ⟨hnone, hdone, fun a ha => ?_, fun a ha => ?_⟩ <;> rw [hbyte, erased, Nat.zero_add, hto.cfg]
    · rw [if_pos ⟨Nat.zero_le a, ha⟩]
    · rw [if_neg (by omega), hto.byte]

/-! ## The sectors of a range (R166, R167) -/

theorem floorTo_eq_mul_div (k a : Nat) : floorTo k a = k * (a / k) := Nat.mul_div_self_eq_mod_sub_self.symm

/-- A sector that starts by `e` starts by the sector that holds `e`. -/
theorem le_floorTo {size c e : Nat} (hc : c % size = 0) (h : c ≤ e) : c ≤ floorTo size e := by
  rw [floorTo_eq_mul_div]
  calc c = size * (c / size) := (Nat.mul_div_cancel' (Nat.dvd_of_mod_eq_zero hc)).symm
    _ ≤ size * (e / size) := Nat.mul_le_mul_left _ (Nat.div_le_div_right h)

/-- A sector that starts past `e` starts past the sector that holds `e`. -/
theorem floorTo_add_le {size c e : Nat} (hc : c % size = 0) (h : e < c) : floorTo size e + size ≤ c := by
  have hdvd := Nat.dvd_of_mod_eq_zero hc
  rw [floorTo_eq_mul_div, ← Nat.mul_succ]
  calc size * (e / size + 1) ≤ size * (c / size) := Nat.mul_le_mul_left _ (Nat.div_lt_div_of_lt_of_dvd hdvd h)
    _ = c := Nat.mul_div_cancel' hdvd

theorem lt_floorTo_add {size : Nat} (hs : 1 ≤ size) (e : Nat) : e < floorTo size e + size := by
  have hlt := Nat.mod_lt e hs
  unfold floorTo
  omega

/-- The sectors from the one at `c` to the one that holds `e`. -/
def sectorsFrom (size c e : Nat) : List Nat :=
  (List.range (e / size + 1 - c / size)).map fun k => (c / size + k) * size

theorem sectorsFrom_floorTo {size : Nat} (hs : 1 ≤ size) (start length : Nat) :
    sectorsFrom size (floorTo size start) (start + length) = sectorList size start length := by
  rw [sectorsFrom, floorTo_eq_mul_div, Nat.mul_div_cancel_left _ hs, sectorList]

/-- No sector is left when the next one starts past the end. -/
theorem sectorsFrom_of_lt {size c e : Nat} (hc : c % size = 0) (h : e < c) :
    sectorsFrom size c e = [] := by
  have hlt : e / size < c / size := Nat.div_lt_div_of_lt_of_dvd (Nat.dvd_of_mod_eq_zero hc) h
  rw [sectorsFrom, Nat.sub_eq_zero_of_le hlt]
  rfl

/-- A sector that starts by the end of the range is the first one left. -/
theorem sectorsFrom_of_le {size c e : Nat} (hs : 1 ≤ size) (hc : c % size = 0) (h : c ≤ e) :
    sectorsFrom size c e = c :: sectorsFrom size (c + size) e := by
  have hle : c / size ≤ e / size := Nat.div_le_div_right h
  have hcount : e / size + 1 - c / size = e / size + 1 - (c / size + 1) + 1 := by omega
  have hshift (k : Nat) : c / size + (k + 1) = c / size + 1 + k := by omega
  rw [sectorsFrom, sectorsFrom, Nat.add_div_right c hs, hcount, List.range_succ_eq_map, List.map_cons, List.map_map,
    Nat.add_zero, Nat.div_mul_cancel (Nat.dvd_of_mod_eq_zero hc)]
  exact congrArg _ (List.map_congr_left fun k _ => congrArg (· * size) (hshift k))

theorem sectorSize_pos {cfg : Cfg} (h : cfg.wf = true) : 1 ≤ cfg.geom.sectorSize.toNat := by
  simp only [Cfg.wf, geometryOk, Bool.and_eq_true, decide_eq_true_eq] at h
  obtain ⟨⟨⟨⟨-, hsector⟩, -⟩, -⟩, -⟩ := h
  exact hsector

/-! ## One pass of the loop (R165) -/

/-- An ERASE_RANGE between two sectors: ECURSOR and EEND, ESTATE and MODE (R21, R135, R165). -/
structure BetweenSectors (start length : Word) (s : State) : Prop extends EraseAt start length s where
  wf : s.cfg.wf = true
  reach : s.ers.ecursor ≤ floorTo s.cfg.geom.sectorSize.toNat s.ers.eend + s.cfg.geom.sectorSize.toNat
  estate : s.estate = .idle
  indirect : s.mode = .indirect

/-- The sectors from ECURSOR to EEND. -/
def sectorsLeft (s : State) : List Nat := sectorsFrom s.cfg.geom.sectorSize.toNat s.ers.ecursor s.ers.eend

/-- The four events of the elementary command for the sector at ECURSOR (R165). -/
def sectorCalls (s : State) : List Event :=
  wcmdTrace s.cfg.cat .sectorErase s.ers.ecursor [] s.cfg.cat.tSectorErase

theorem eraseSector_mode (s : State) : (runState (eraseSector s)).mode = s.mode := by
  have hm := wcmd_mode .sectorErase s.ers.ecursor [] s.cfg.cat.tSectorErase (BitVec.ofNat 32 s.ers.ecursor) s
  unfold eraseSector
  generalize wcmd .sectorErase s.ers.ecursor [] s.cfg.cat.tSectorErase (BitVec.ofNat 32 s.ers.ecursor) s = r at hm ⊢
  cases r <;> exact hm

/-- A pass appends its four calls, or stops at the first call not answered OK (R165, R235). -/
theorem eraseSector_cases {s : State} (h : s.estate = .idle) :
    (∃ t, eraseSector s = .going t ∧ t.trace = s.trace ++ sectorCalls s ∧ t.estate = .idle) ∨
      ∃ t n e r, eraseSector s = .ended t ∧ StoppedAt s (sectorCalls s) (BitVec.ofNat 32 s.ers.ecursor) t n e r := by
  unfold eraseSector
  obtain ⟨u, hu, ht, he, -⟩ | ⟨u, n, e, r, hu, hstop⟩ := elementaryCommandCalls .sectorErase s.ers.ecursor []
    s.cfg.cat.tSectorErase (BitVec.ofNat 32 s.ers.ecursor) s h <;> rw [hu]
  · exact .inl ⟨_, rfl, ht, he⟩
  · exact .inr ⟨u, n, e, r, rfl, hstop⟩

section
variable {start length : Word} {s t : State}

/-- A pass that goes on. -/
theorem BetweenSectors.next (h : BetweenSectors start length s) (hle : s.ers.ecursor ≤ s.ers.eend)
    (ht : eraseSector s = .going t) :
    BetweenSectors start length t ∧ t.trace = s.trace ++ sectorCalls s := by
  have hm := eraseSector_mode s
  rw [ht] at hm
  obtain ⟨hc, he⟩ := eraseSector_going ht
  obtain ⟨u, hu, htrace, hes⟩ | ⟨u, n, e, r, hu, -⟩ := eraseSector_cases h.estate <;> cases ht.symm.trans hu
  refine ⟨⟨h.toEraseAt.next ht, hc ▸ h.wf, ?_, hes, hm.trans h.indirect⟩, htrace⟩
  rw [hc, he]
  exact Nat.add_le_add_right (le_floorTo h.aligned hle) _

/-- A pass that ends the request. -/
theorem BetweenSectors.ended (h : BetweenSectors start length s) (ht : eraseSector s = .ended t) :
    t.mode = .indirect ∧
      ∃ n e r, StoppedAt s (sectorCalls s) (BitVec.ofNat 32 s.ers.ecursor) t n e r := by
  have hm := eraseSector_mode s
  rw [ht] at hm
  obtain ⟨u, hu, -⟩ | ⟨u, n, e, r, hu, hstop⟩ := eraseSector_cases h.estate <;> cases ht.symm.trans hu
  exact ⟨hm.trans h.indirect, n, e, r, hstop⟩

theorem eraseSector_of_obliges {calls : List Call}
    (ho : obliges (wcmdCalls s.cfg.cat s.cfg.cat.tSectorErase ++ calls) s.dev.script = true) :
    ∃ t, eraseSector s = .going t ∧ obliges calls t.dev.script = true := by
  obtain ⟨hok, hcalls⟩ := wcmdOk_of_obliges ho .sectorErase s.ers.ecursor []
  unfold eraseSector
  rw [hok.eq_going]
  exact ⟨_, rfl, by rwa [setEState_dev]⟩

theorem sectorsLeft_next (ht : eraseSector s = .going t) :
    sectorsLeft t = sectorsFrom s.cfg.geom.sectorSize.toNat (s.ers.ecursor + s.cfg.geom.sectorSize.toNat)
      s.ers.eend := by
  obtain ⟨hc, he⟩ := eraseSector_going ht
  rw [sectorsLeft, hc, he]

theorem BetweenSectors.sectorsLeft_eq (h : BetweenSectors start length s) (hle : s.ers.ecursor ≤ s.ers.eend) :
    sectorsLeft s = s.ers.ecursor :: sectorsFrom s.cfg.geom.sectorSize.toNat
      (s.ers.ecursor + s.cfg.geom.sectorSize.toNat) s.ers.eend :=
  sectorsFrom_of_le (sectorSize_pos h.wf) h.aligned hle

end

/-! ## The loop (R165) -/

/-- From `s` an ERASE_RANGE issued these sectors, every call answered OK, and came to `u`. -/
structure IssuesSectors (start length : Word) (s : State) (sectors : List Nat) (u : State) : Prop where
  between : BetweenSectors start length u
  cfg : u.cfg = s.cfg
  trace : u.trace = s.trace ++ eraseTrace s.cfg.cat sectors

section
variable {start length : Word} {s t u : State} {sectors : List Nat}

theorem IssuesSectors.nil (h : BetweenSectors start length s) : IssuesSectors start length s [] s :=
  ⟨h, rfl, by simp [eraseTrace]⟩

theorem IssuesSectors.cons (hu : IssuesSectors start length t sectors u) (h : BetweenSectors start length s)
    (hle : s.ers.ecursor ≤ s.ers.eend) (ht : eraseSector s = .going t) :
    IssuesSectors start length s (s.ers.ecursor :: sectors) u := by
  obtain ⟨-, htrace⟩ := h.next hle ht
  obtain ⟨hc, -⟩ := eraseSector_going ht
  refine ⟨hu.between, hu.cfg.trans hc, ?_⟩
  rw [hu.trace, htrace, hc, List.append_assoc]
  rfl

/-- The loop issues all the sectors that are left, or ends in one of them (R165). -/
theorem eraseLoop_cases (n : Nat) (h : BetweenSectors start length s) (hn : s.ers.eend + 1 - s.ers.ecursor ≤ n) :
    (∃ u, eraseLoop n s = .going u ∧ IssuesSectors start length s (sectorsLeft s) u ∧
      u.ers.eend < u.ers.ecursor) ∨
    ∃ j u v, eraseLoop n s = .ended v ∧ IssuesSectors start length s ((sectorsLeft s).take j) u ∧
      (sectorsLeft s)[j]? = some u.ers.ecursor ∧ u.ers.ecursor ≤ u.ers.eend ∧ eraseSector u = .ended v := by
  have hdone {s : State} (h : BetweenSectors start length s) (hlt : s.ers.eend < s.ers.ecursor) :
      IssuesSectors start length s (sectorsLeft s) s := by
    rw [sectorsLeft, sectorsFrom_of_lt h.aligned hlt]
    exact .nil h
  induction n generalizing s with
  | zero =>
    have hlt : s.ers.eend < s.ers.ecursor := by omega
    exact .inl ⟨s, rfl, hdone h hlt, hlt⟩
  | succ n ih =>
    unfold eraseLoop
    split_ifs with hle
    swap
    · exact .inl ⟨s, rfl, hdone h (Nat.lt_of_not_le hle), Nat.lt_of_not_le hle⟩
    rw [h.sectorsLeft_eq hle]
    cases ht : eraseSector s with
    | going t =>
      obtain ⟨hnext, -⟩ := h.next hle ht
      obtain ⟨-, he⟩ := eraseSector_going ht
      have hpos := sectorSize_pos h.wf
      rw [andThen_going, ← sectorsLeft_next ht]
      obtain ⟨u, hu, hi, hlt⟩ | ⟨j, u, v, hv, hi, hj, hleft, hend⟩ := ih hnext (by rw [he]; dsimp only; omega)
      · exact .inl ⟨u, hu, hi.cons h hle ht, hlt⟩
      · exact .inr ⟨j + 1, u, v, hv, hi.cons h hle ht, hj, hleft, hend⟩
    | ended v => exact .inr ⟨0, s, v, rfl, .nil h, rfl, hle, ht⟩

/-- Where the environment answers the calls of all the sectors left OK, the loop ends with no failure. -/
theorem eraseLoop_of_obliges (n : Nat) (h : BetweenSectors start length s)
    (ho : obliges (List.replicate (sectorsLeft s).length (wcmdCalls s.cfg.cat s.cfg.cat.tSectorErase)).flatten
      s.dev.script = true) : ∃ u, eraseLoop n s = .going u := by
  induction n generalizing s with
  | zero => exact ⟨s, rfl⟩
  | succ n ih =>
    unfold eraseLoop
    split_ifs with hle
    swap
    · exact ⟨s, rfl⟩
    rw [h.sectorsLeft_eq hle, List.length_cons, List.replicate_succ, List.flatten_cons] at ho
    obtain ⟨t, ht, hcalls⟩ := eraseSector_of_obliges ho
    obtain ⟨hnext, -⟩ := h.next hle ht
    obtain ⟨hc, -⟩ := eraseSector_going ht
    rw [ht, andThen_going]
    exact ih hnext (by rwa [sectorsLeft_next ht, hc])

end

/-! ## The bytes of the sectors (R169) -/

/-- What makes the rest of an ERASE_RANGE leave its bytes: an idle device, and the sectors up to the one that holds the
range's end in geometry and within the address width (R103, R265). -/
structure Erasable (start length : Word) (s : State) : Prop extends BetweenSectors start length s where
  idle : s.dev.busy = .idle
  geom : floorTo s.cfg.geom.sectorSize.toNat s.ers.eend + s.cfg.geom.sectorSize.toNat ≤ s.cfg.geom.totalSize.toNat
  width : s.ers.eend < 2 ^ (8 * s.cfg.cat.addressBytes)

/-- The run of a SECTOR_ERASE is the sector it names (R110, R169). -/
theorem commandRuns_sectorErase {cfg : Cfg} (hw : cfg.wf = true) {a : Nat} (ha : a < 2 ^ (8 * cfg.cat.addressBytes))
    (haligned : a % cfg.geom.sectorSize.toNat = 0) :
    commandRuns cfg (encodeCmd cfg.cat .sectorErase a []) = some [(a, cfg.geom.sectorSize.toNat)] := by
  have hruns : commandRuns cfg (encodeCmd cfg.cat .sectorErase a []) = some [(floorTo cfg.geom.sectorSize.toNat
      (encodeCmd cfg.cat .sectorErase a []).w1.toNat, cfg.geom.sectorSize.toNat)] := rfl
  rwa [encodeCmd_w1_of_lt hw rfl ha, floorTo, haligned, Nat.sub_zero] at hruns

section
variable {start length : Word} {s t u : State}

/-- A sector erased leaves no command unfinished and `erase_value` in its bytes (R169). -/
theorem Erasable.sector_leaves (h : Erasable start length s) (hle : s.ers.ecursor ≤ s.ers.eend)
    (ht : eraseSector s = .going t) :
    t.dev.inflight = [] ∧
      LeavesBytes (erased s s.ers.ecursor (s.ers.ecursor + s.cfg.geom.sectorSize.toNat)) s t := by
  obtain ⟨hnext, -⟩ := h.toBetweenSectors.next hle ht
  obtain ⟨hc, he⟩ := eraseSector_going ht
  have hgeom : s.ers.ecursor + s.cfg.geom.sectorSize.toNat ≤ s.cfg.geom.totalSize.toNat := by
    have hreach := hnext.reach
    rw [hc, he] at hreach
    exact hreach.trans h.geom
  obtain ⟨v, hv, hadvance⟩ := andThen_eq_going.1 ht
  obtain rfl := Run.going.inj hadvance
  obtain ⟨hok, rfl⟩ := wcmdOk_of_going hv
  obtain ⟨hnone, hleaves⟩ := hok.erases (by decide) h.wf h.idle
    (commandRuns_sectorErase h.wf (hle.trans_lt h.width) h.aligned) hgeom
  exact ⟨(congrArg Device.inflight (setEState_dev _ _)).trans hnone,
    hleaves.of_eq (setEState_cfg _ _) (setEState_host _ _) (setEState_dev _ _)⟩

theorem Erasable.next (h : Erasable start length s) (hle : s.ers.ecursor ≤ s.ers.eend)
    (ht : eraseSector s = .going t) : Erasable start length t := by
  obtain ⟨hnext, -⟩ := h.toBetweenSectors.next hle ht
  obtain ⟨-, hleaves⟩ := h.sector_leaves hle ht
  obtain ⟨hc, he⟩ := eraseSector_going ht
  refine ⟨hnext, hleaves.idle, ?_, ?_⟩ <;> rw [hc, he]
  · exact h.geom
  · exact h.width

/-- Erasing up to `mid` and then from `mid` on. -/
theorem erased_append {lo mid hi : Nat} (ht : LeavesBytes (erased s lo mid) s t) (hlo : lo ≤ mid) (hhi : mid ≤ hi)
    (x : Nat) : erased t mid hi x = erased s lo hi x := by
  unfold erased
  rw [ht.byte, ht.cfg, erased]
  by_cases hx : mid ≤ x ∧ x < hi
  · rw [if_pos hx, if_pos (by omega)]
  · rw [if_neg hx]
    exact if_congr (by omega) rfl rfl

/-- Sectors erased on an idle device leave `erase_value` in their bytes, and no command unfinished. -/
theorem Erasable.loop_leaves (n : Nat) (h : Erasable start length s) (hu : eraseLoop n s = .going u) :
    (u = s ∨ u.dev.inflight = []) ∧ s.ers.ecursor ≤ u.ers.ecursor ∧
      LeavesBytes (erased s s.ers.ecursor u.ers.ecursor) s u := by
  have hrefl {s : State} (hidle : s.dev.busy = .idle) :
      (s = s ∨ s.dev.inflight = []) ∧ s.ers.ecursor ≤ s.ers.ecursor ∧
        LeavesBytes (erased s s.ers.ecursor s.ers.ecursor) s s :=
    ⟨.inl rfl, Nat.le_refl _, (LeavesBytes.refl hidle).congr fun x => by rw [erased, if_neg (by omega)]⟩
  induction n generalizing s with
  | zero =>
    cases hu
    exact hrefl h.idle
  | succ n ih =>
    unfold eraseLoop at hu
    split_ifs at hu with hle
    swap
    · cases hu
      exact hrefl h.idle
    obtain ⟨t, ht, hrest⟩ := andThen_eq_going.1 hu
    obtain ⟨hnone, hfirst⟩ := h.sector_leaves hle ht
    obtain ⟨hsettled, hmono, hleaves⟩ := ih (h.next hle ht) hrest
    obtain ⟨-, he⟩ := eraseSector_going ht
    rw [he] at hmono hleaves
    exact ⟨.inr (hsettled.elim (fun e => e ▸ hnone) id), (Nat.le_add_right _ _).trans hmono,
      (hfirst.trans hleaves).congr (erased_append hfirst (Nat.le_add_right _ _) hmono)⟩

/-- After the loop ECURSOR stands just past the sector that holds the range's end. -/
theorem BetweenSectors.ecursor_eq (h : BetweenSectors start length s) (hlt : s.ers.eend < s.ers.ecursor) :
    s.ers.ecursor = floorTo s.cfg.geom.sectorSize.toNat s.ers.eend + s.cfg.geom.sectorSize.toNat :=
  Nat.le_antisymm h.reach (floorTo_add_le h.aligned hlt)

end

/-! ## The whole ERASE_RANGE (R165) -/

/-- `u` is `s` at the loop of an ERASE_RANGE: accepted, in INDIRECT, ECURSOR and EEND set (R165, R183, R225). -/
structure EraseStarts (start length : Word) (s u : State) : Prop extends ToIndirect s u where
  between : BetweenSectors start length u
  ecursor : u.ers.ecursor = floorTo s.cfg.geom.sectorSize.toNat start.toNat

section
variable {start length : Word} {s u : State}

theorem eraseStarts_of_going (hw : s.cfg.wf = true) (hu : ensureIndirect start (accept 3 s) = .going u) :
    EraseStarts start length s (eraseStart start length u) := by
  have htoggle := (toIndirect_of_going hu).of_accept
  have hfollows := follows_ensureIndirect (i := .eraseRange start length) (by simp) (accept_estate 3 s) start
  rw [hu] at hfollows
  have hw' : u.cfg.wf = true := htoggle.cfg ▸ hw
  have hreach : floorTo u.cfg.geom.sectorSize.toNat start.toNat ≤
      floorTo u.cfg.geom.sectorSize.toNat (start.toNat + length.toNat) + u.cfg.geom.sectorSize.toNat :=
    (Nat.sub_le _ _).trans ((Nat.le_add_right _ _).trans (lt_floorTo_add (sectorSize_pos hw') _).le)
  obtain ⟨hm, hc, hh, ht, hb, hx, hs⟩ := htoggle
  exact ⟨⟨hm, hc, hh, ht, hb, hx, hs⟩, ⟨eraseAt_eraseStart start length u, hw', hreach, hfollows.idle, hm⟩,
    congrArg (fun c : Cfg => floorTo c.geom.sectorSize.toNat start.toNat) hc⟩

theorem EraseStarts.sectorsLeft_eq (h : EraseStarts start length s u) :
    sectorsLeft u = sectorList s.cfg.geom.sectorSize.toNat start.toNat length.toNat := by
  rw [sectorsLeft, h.ecursor, h.between.eend, h.cfg, sectorsFrom_floorTo (h.cfg ▸ sectorSize_pos h.between.wf)]

/-- An ERASE_RANGE whose calls are all answered OK runs its loop to the end. -/
theorem exec_eraseRange_of_obliges (hready : s.Ready start length)
    (ho : obliges (toggleCalls .indirect s.mode
      ++ (List.replicate (sectorList s.cfg.geom.sectorSize.toNat start.toNat length.toNat).length
        (wcmdCalls s.cfg.cat s.cfg.cat.tSectorErase)).flatten) s.dev.script = true) :
    ∃ u v, EraseStarts start length s u ∧ eraseRun u = .going v ∧
      exec (.eraseRange start length) s = .next (respond okResponse v) := by
  obtain ⟨hw, hinit, hfit⟩ := hready
  obtain ⟨u, hu, -, hcalls⟩ := toIndirect_of_obliges ho 3 start
  have hs : EraseStarts start length s (eraseStart start length u) := eraseStarts_of_going hw hu
  obtain ⟨v, hv⟩ := eraseLoop_of_obliges _ hs.between (by rw [hs.sectorsLeft_eq, hs.cfg]; exact hcalls)
  refine ⟨_, v, hs, hv, ?_⟩
  rw [exec_eraseRange, runRequest_of_extent hw hinit hfit, eraseRangeBody, hu, andThen_going, eraseRun, hv, finish_going]

/-- The loop of an ERASE_RANGE that went to its end issued all its sectors. -/
theorem EraseStarts.issues {v : State} (h : EraseStarts start length s u) (hv : eraseRun u = .going v) :
    IssuesSectors start length u (sectorsLeft u) v ∧ v.ers.eend < v.ers.ecursor := by
  obtain ⟨w, hw, hi, hlt⟩ | ⟨j, w, t, ht, -⟩ := eraseLoop_cases _ h.between (Nat.le_refl _)
  · cases hv.symm.trans hw
    exact ⟨hi, hlt⟩
  · cases hv.symm.trans ht

end

/-- Settles O27: the loop issues all the sectors, each appending its four calls. -/
theorem eraseRangeIssuesItsSectors : Obligations.EraseRangeIssuesItsSectors := by
  intro s start length hready sectors ho
  obtain ⟨u, v, hs, hv, hx⟩ := exec_eraseRange_of_obliges hready ho
  obtain ⟨hi, hlt⟩ := hs.issues hv
  obtain ⟨-, hinit, -⟩ := hready
  refine ⟨_, hx, respond_rsp _ v, ?_, (respond_mode _ v).trans hi.between.indirect, respond_estate _ v,
    respond_curOp _ v, ((exec_keepsHost hx).initDone rfl).trans hinit, ?_, ?_⟩
  · rw [respond_trace, hi.trace, hs.trace, hs.cfg, hs.sectorsLeft_eq]
  · rw [respond_ers, hi.between.eend]
  · rwa [respond_ers]

/-- Settles O28: each sector leaves `erase_value` in its bytes, and the last one no command unfinished. -/
theorem eraseRangeErasesItsSectors : Obligations.EraseRangeErasesItsSectors := by
  intro s start length hready size first past ho hidle hgeom hwidth
  obtain ⟨u, v, hs, hv, hx⟩ := exec_eraseRange_of_obliges hready ho
  obtain ⟨hi, hlt⟩ := hs.issues hv
  obtain ⟨hw, -, -⟩ := hready
  have hpast : start.toNat + length.toNat < past := lt_floorTo_add (sectorSize_pos hw) _
  have hfirst : first ≤ start.toNat := Nat.sub_le _ _
  have herasable : Erasable start length u := by
    refine ⟨hs.between, hs.busy.trans hidle, ?_, ?_⟩ <;> rw [hs.cfg, hs.between.eend]
    · exact hgeom
    · exact hwidth
  obtain ⟨hsettled, -, -, -, hdone, hbyte⟩ := herasable.loop_leaves _ hv
  have hlast : v.ers.ecursor = past := by rw [hi.between.ecursor_eq hlt, hi.between.eend, hi.cfg, hs.cfg]
  have herased (x : Nat) : flashByte v.dev x = erased s first past x := by
    rw [hbyte, hs.ecursor, hlast, erased, hs.cfg, hs.byte]
    rfl
  refine ⟨hfirst, hpast, _, hx, ?_, ?_, fun a hlo hhi => ?_, fun a ha => ?_⟩ <;> rw [respond_dev]
  · refine hsettled.resolve_left fun heq => ?_
    have : first = past := by rw [← hlast, heq, hs.ecursor]
    omega
  · exact hdone
  · rw [herased, erased, if_pos ⟨hlo, hhi⟩]
  · rw [herased, erased, if_neg (by omega)]

/-- Settles O44: the request ends in its ABORT, or in the sector where `eraseLoop_cases` ends, whose calls
`BetweenSectors.ended` lists. -/
theorem failedEraseReportsItsSector : Obligations.FailedEraseReportsItsSector := by
  intro s t start length hx hst sectors
  obtain ⟨hr, rfl⟩ := runRequest_eq_next.1 hx
  obtain ⟨hw, -, hfit⟩ := requestRefusal_eq_none.1 hr
  rw [eraseRangeBody] at hst ⊢
  cases hu : ensureIndirect start (accept 3 s) with
  | ended u =>
    obtain ⟨hm, ha, rfl⟩ := ensureIndirect_ended hu
    rw [accept_mode] at hm
    rw [accept_dev] at ha
    refine .inl ⟨hm, ?_, ?_, fail_rsp _ _ _⟩
    · simp [ha]
    · simp [ha, hm]
  | going u =>
    have hs : EraseStarts start length s (eraseStart start length u) := eraseStarts_of_going hw hu
    rw [hu, andThen_going, eraseRun] at hst
    rw [andThen_going, eraseRun]
    obtain ⟨v, hv, -⟩ | ⟨j, v, t, ht, hi, hj, hle, hend⟩ := eraseLoop_cases _ hs.between (Nat.le_refl _)
    · rw [hv] at hst
      exact absurd (congrArg Response.status (respond_rsp okResponse v)) hst
    · obtain ⟨hmode, n, e, r, he, hne, htimeout, htrace, -, -, -, hrsp⟩ := hi.between.ended hend
      have hcfg : v.cfg = s.cfg := hi.cfg.trans hs.cfg
      have hword : v.ers.ecursor < 2 ^ 32 := by
        have := hi.between.eend
        omega
      rw [sectorCalls, hcfg] at he htrace
      rw [hs.sectorsLeft_eq] at hj hi
      rw [ht]
      refine .inr ⟨j, v.ers.ecursor, n, e, r, hj, he, hne, htimeout, ?_, hmode, ?_, ?_⟩
      · rw [finish_ended, htrace, hi.trace, hs.trace, hs.cfg]
      · rw [finish_ended, hrsp]
      · rw [finish_ended, hrsp]
        exact Nat.mod_eq_of_lt hword

end Sys2Proof.Machine
end

section
/-! PROOFS of the family 44_memory_map_window: no call or read of a request stands in a mode that forbids it (R21,
R180), and the mode each request ends in, with the toggle call it starts with (R185). -/

namespace Sys2Proof.Machine

/-! ## Events and MODE (R180 to R182) -/

theorem disciplined_append (m : Mode) (es fs : List Event) :
    disciplined m (es ++ fs) = (disciplined m es && disciplined (modeAfterAll m es) fs) := by
  induction es generalizing m with
  | nil => rfl
  | cons e es ih => simp [disciplined, modeAfterAll, ih, Bool.and_assoc]

theorem modeAfter_map (m : Mode) (cmd : BusCmd) (r : Answer) :
    modeAfter m (.map cmd r) = if r = .ok then .mapped else m := by cases r <;> rfl

theorem modeAfter_abort (m : Mode) (r : Answer) :
    modeAfter m (.abort r) = if r = .ok then .indirect else m := by cases r <;> rfl

/-- From `s` to `t` every event stood in a mode that allows it, and MODE moved with the events alone (R180). -/
def ObeysMode (s t : State) : Prop :=
  ∃ new, t.trace = s.trace ++ new ∧ disciplined s.mode new = true ∧ t.mode = modeAfterAll s.mode new

theorem ObeysMode.trans {s t u : State} (h : ObeysMode s t) (k : ObeysMode t u) : ObeysMode s u := by
  obtain ⟨es, ht, hes, hm⟩ := h
  obtain ⟨fs, kt, kfs, km⟩ := k
  rw [hm] at kfs km
  refine ⟨es ++ fs, by rw [kt, ht, List.append_assoc], ?_, ?_⟩
  · rw [disciplined_append, hes, kfs]
    rfl
  · rw [km, modeAfterAll, modeAfterAll, modeAfterAll, List.foldl_append]

/-- A change of other registers alone. -/
theorem obeysMode_of_eq {s t : State} (hm : t.mode = s.mode) (ht : t.trace = s.trace) : ObeysMode s t :=
  ⟨[], by simp [ht], rfl, hm⟩

theorem ObeysMode.refl (s : State) : ObeysMode s s := obeysMode_of_eq rfl rfl

theorem obeysMode_of_event {s t : State} {e : Event} (ht : t.trace = s.trace ++ [e]) (ha : allowedIn s.mode e = true)
    (hm : t.mode = modeAfter s.mode e) : ObeysMode s t :=
  ⟨[e], ht, by simp [disciplined, ha], hm⟩

theorem obeysMode_send {s : State} (h : IsIndirect s) (k : Kind) (a : Nat) (payload : List Byte) :
    ObeysMode s (sendOp (encodeOp k a payload s)) :=
  obeysMode_of_event rfl (beq_iff_eq.2 h) rfl

theorem obeysMode_poll {s : State} (h : IsIndirect s) (spec : PollSpec) : ObeysMode s (pollOp spec s) :=
  obeysMode_of_event rfl (beq_iff_eq.2 h) rfl

theorem obeysMode_map {s : State} (h : IsIndirect s) : ObeysMode s (mapOp s) :=
  obeysMode_of_event (mapOp_trace s) (beq_iff_eq.2 h) ((mapOp_mode s).trans (modeAfter_map _ _ _).symm)

theorem obeysMode_abort {s : State} (h : s.mode = .mapped) : ObeysMode s (abortOp s) :=
  obeysMode_of_event (abortOp_trace s) (beq_iff_eq.2 h) ((abortOp_mode s).trans (modeAfter_abort _ _).symm)

theorem obeysMode_setEState (e : EState) (s : State) : ObeysMode s (setEState e s) :=
  obeysMode_of_eq (setEState_mode e s) (setEState_trace e s)

theorem obeysMode_readPayload (n : Nat) (a : Word) (s : State) : ObeysMode s (readPayload n a s).2 := by
  induction n generalizing a s with
  | zero => exact .refl s
  | succ n ih =>
    have hread : ObeysMode s (ramReadOp a s) := obeysMode_of_event rfl rfl rfl
    exact hread.trans (ih (a + 1) (ramReadOp a s))

/-! ## Runs of a request -/

/-- MODE = MAPPED, as every window read needs it (R14). -/
def IsMapped (s : State) : Prop := s.mode = .mapped

theorem isMapped_of_ne_indirect {s : State} (h : s.mode ≠ .indirect) : IsMapped s := by
  cases hm : s.mode with
  | indirect => exact absurd hm h
  | mapped => exact hm

theorem mapOp_mode_of_ok {s : State} (h : (mapOp s).seq.ret = .ok) : (mapOp s).mode = .mapped := if_pos h

/-- A run from `s` that obeys MODE: `P` holds where it goes on, and a run that has ended reports a failure (R15). -/
def Run.Reaches (P : State → Prop) (s : State) : Run → Prop
  | .going t => ObeysMode s t ∧ P t
  | .ended t => ObeysMode s t ∧ t.rsp.status ≠ .ok

/-- From `s` a request that obeys MODE has come to its response in `t`; `P` holds if the response is OK. -/
structure EndsIn (P : State → Prop) (s t : State) : Prop where
  obeys : ObeysMode s t
  ok : t.rsp.status = .ok → P t

section
variable {P Q : State → Prop} {s : State}

theorem Run.Reaches.after {t : State} {r : Run} (hr : r.Reaches P t) (h : ObeysMode s t) : r.Reaches P s := by
  cases r with
  | going | ended =>
    obtain ⟨hobeys, hend⟩ := hr
    exact ⟨h.trans hobeys, hend⟩

theorem Run.Reaches.andThen {r : Run} {f : State → Run} (hr : r.Reaches P s) (hf : ∀ t, P t → (f t).Reaches Q t) :
    (andThen r f).Reaches Q s := by
  cases r with
  | going t =>
    obtain ⟨hobeys, hp⟩ := hr
    exact (hf t hp).after hobeys
  | ended t => exact hr

theorem EndsIn.after {t u : State} (h : EndsIn P t u) (hs : ObeysMode s t) : EndsIn P s u :=
  ⟨hs.trans h.obeys, h.ok⟩

theorem Run.Reaches.finish {r : Run} {f : State → State} (hr : r.Reaches P s) (hf : ∀ t, P t → EndsIn Q t (f t)) :
    EndsIn Q s (finish r f) := by
  cases r with
  | going t =>
    obtain ⟨hobeys, hp⟩ := hr
    exact (hf t hp).after hobeys
  | ended t =>
    obtain ⟨hobeys, hfailed⟩ := hr
    exact ⟨hobeys, fun hok => absurd hok hfailed⟩

theorem endsIn_respond {r : Response} (h : P (respond r s)) : EndsIn P s (respond r s) :=
  ⟨obeysMode_of_eq (respond_mode r s) (respond_trace r s), fun _ => h⟩

/-- A request of length 0 is answered at once, in the mode it finds (R185 speaks of `length ≥ 1`). -/
theorem EndsIn.of_length {t : State} (h : EndsIn P s t) (length : Word) (r : Response) :
    EndsIn (fun u => length ≠ 0 → P u) s (if length = 0 then respond r s else t) := by
  split_ifs with h0
  · exact endsIn_respond fun hlen => absurd h0 hlen
  · exact ⟨h.obeys, fun hok _ => h.ok hok⟩

theorem Run.Reaches.finish_indirect {r : Run} (hr : r.Reaches IsIndirect s) (x : Response) :
    EndsIn IsIndirect s (Machine.finish r (respond x)) :=
  hr.finish fun t ht => endsIn_respond ((respond_mode x t).trans ht)

theorem reaches_fail {k : Status} (hk : k ≠ .ok) {t : State} (h : ObeysMode s t) (ea : Word) :
    Run.Reaches P s (.ended (fail k ea t)) :=
  ⟨h.trans (obeysMode_of_eq (fail_mode k ea t) (fail_trace k ea t)), by rwa [fail_rsp]⟩

theorem statusOf_ne_ok {a : Answer} (h : a ≠ .ok) : statusOf a ≠ .ok := by
  cases a with
  | ok => exact absurd rfl h
  | busError | timedOut => simp [statusOf]

theorem reaches_orFail {t : State} (h : ObeysMode s t) (hp : t.seq.ret = .ok → P t) (ea : Word) :
    (orFail ea t).Reaches P s := by
  obtain ⟨hok, e⟩ | ⟨hne, e⟩ := orFail_cases ea t <;> rw [e]
  · exact ⟨h, hp hok⟩
  · exact reaches_fail (statusOf_ne_ok hne) h ea

theorem reaches_orInitError {t : State} (h : ObeysMode s t) (hp : t.seq.ret = .ok → P t) :
    (orInitError t).Reaches P s := by
  obtain ⟨hok, e⟩ | ⟨-, e⟩ := orInitError_cases t <;> rw [e]
  · exact ⟨h, hp hok⟩
  · exact reaches_fail (by decide) h 0

/-! ### The mode toggle and the elementary command -/

theorem reaches_ensureIndirect (ea : Word) (s : State) : (ensureIndirect ea s).Reaches IsIndirect s := by
  unfold ensureIndirect
  split_ifs with hm
  · exact reaches_orFail (obeysMode_abort hm) abortOp_mode_of_ok ea
  · exact ⟨.refl s, isIndirect_of_ne_mapped hm⟩

theorem reaches_ensureMapped (ea : Word) (s : State) : (ensureMapped ea s).Reaches IsMapped s := by
  unfold ensureMapped
  split_ifs with hm
  · exact reaches_orFail (obeysMode_map hm) mapOp_mode_of_ok ea
  · exact ⟨.refl s, isMapped_of_ne_indirect hm⟩

theorem reaches_send (h : IsIndirect s) (k : Kind) (a : Nat) (payload : List Byte) (ea : Word) :
    (orFail ea (sendOp (encodeOp k a payload s))).Reaches IsIndirect s :=
  reaches_orFail (obeysMode_send h k a payload) (fun _ => h) ea

theorem reaches_poll (h : IsIndirect s) (spec : PollSpec) (ea : Word) :
    (orFail ea (pollOp spec s)).Reaches IsIndirect s :=
  reaches_orFail (obeysMode_poll h spec) (fun _ => h) ea

theorem reaches_wcmd (h : IsIndirect s) (k : Kind) (a : Nat) (payload : List Byte) (t ea : Word) :
    (wcmd k a payload t ea s).Reaches IsIndirect s := by
  refine (reaches_send h .writeEnable 0 [] ea).andThen fun u hu => ?_
  refine ((reaches_poll (isIndirect_setEState .welPending hu) _ ea).after (obeysMode_setEState _ u)).andThen
    fun u hu => ?_
  refine ((reaches_send (isIndirect_setEState .cmdIssued hu) k a payload ea).after (obeysMode_setEState _ u)).andThen
    fun u hu => ?_
  refine ((reaches_poll (isIndirect_setEState .busyPolling hu) _ ea).after (obeysMode_setEState _ u)).andThen
    fun u hu => ?_
  exact ⟨obeysMode_setEState _ u, isIndirect_setEState .idle hu⟩

/-! ### INIT -/

/-- MODE at the end of INIT: MAPPED exactly when the catalog says so (R185, R220). -/
def MappedIfXip (s : State) : Prop := s.mode = .mapped ↔ s.cfg.cat.xipAfterInit = true

theorem reaches_initSend (h : IsIndirect s) (k : Kind) : (initSend k s).Reaches IsIndirect s :=
  reaches_orInitError (obeysMode_send h k 0 []) fun _ => h

theorem reaches_ite_initSend (c : Prop) [Decidable c] (h : IsIndirect s) (k : Kind) :
    (if c then initSend k s else .going s).Reaches IsIndirect s := by
  split_ifs
  · exact reaches_initSend h k
  · exact ⟨.refl s, h⟩

/-- The last line of INIT, its optional MAP (R220). -/
theorem reaches_initMap (h : IsIndirect s) :
    (if s.cfg.cat.xipAfterInit then orInitError (mapOp s) else .going s).Reaches MappedIfXip s := by
  split_ifs with hx
  · exact reaches_orInitError (obeysMode_map h) fun hok => iff_of_true (mapOp_mode_of_ok hok) hx
  · exact ⟨.refl s, iff_of_false (by rw [h]; decide) hx⟩

theorem reaches_initLines (s : State) : (initLines s).Reaches MappedIfXip s := by
  refine Run.Reaches.andThen (P := IsIndirect) ?_ fun s h => ?_
  · split_ifs with hm
    · exact reaches_orInitError (obeysMode_abort hm) abortOp_mode_of_ok
    · exact ⟨.refl s, isIndirect_of_ne_mapped hm⟩
  refine (reaches_ite_initSend _ h .resetEnable).andThen fun s h => ?_
  refine (reaches_initSend h .reset).andThen fun s h => ?_
  refine Run.Reaches.andThen (P := IsIndirect) (reaches_orInitError (obeysMode_poll h _) fun _ => h) fun s h => ?_
  refine (reaches_ite_initSend _ h .enter4Byte).andThen fun s h => ?_
  exact reaches_initMap h

theorem endsIn_initBody (s : State) : EndsIn MappedIfXip s (initBody s) := by
  have hlines := (reaches_initLines { s with initDone := false }).after (s := s) (obeysMode_of_eq rfl rfl)
  refine hlines.finish fun t ht => EndsIn.after (t := { t with initDone := true }) (endsIn_respond ?_)
    (obeysMode_of_eq rfl rfl)
  rwa [MappedIfXip, respond_mode, respond_cfg]

/-! ### ERASE_ALL, ERASE_RANGE and PROGRAM -/

theorem endsIn_eraseAllBody (s : State) : EndsIn IsIndirect s (eraseAllBody s) :=
  ((reaches_ensureIndirect 0 s).andThen fun _ ht => reaches_wcmd ht _ _ _ _ _).finish_indirect _

theorem reaches_eraseSector (h : IsIndirect s) : (eraseSector s).Reaches IsIndirect s :=
  (reaches_wcmd h _ _ _ _ _).andThen fun _ ht => ⟨obeysMode_of_eq rfl rfl, ht⟩

theorem reaches_eraseLoop (n : Nat) {s : State} (h : IsIndirect s) : (eraseLoop n s).Reaches IsIndirect s := by
  induction n generalizing s with
  | zero => exact ⟨.refl s, h⟩
  | succ n ih =>
    unfold eraseLoop
    split_ifs
    · exact (reaches_eraseSector h).andThen fun _ => ih
    · exact ⟨.refl s, h⟩

theorem endsIn_eraseRangeBody (start length : Word) (s : State) :
    EndsIn IsIndirect s (eraseRangeBody start length s) :=
  ((reaches_ensureIndirect start s).andThen fun t ht =>
    (reaches_eraseLoop _ (s := eraseStart start length t) ht).after (obeysMode_of_eq rfl rfl)).finish_indirect _

theorem reaches_programChunk (h : IsIndirect s) (start buf : Word) : (programChunk start buf s).Reaches IsIndirect s := by
  have hread := obeysMode_readPayload s.spl.chunk.toNat (buf + (s.spl.cursor - start)) s
  have hcommand := reaches_wcmd ((readPayload_mode s.spl.chunk.toNat (buf + (s.spl.cursor - start)) s).trans h)
  exact ((hcommand _ _ _ _ _).after hread).andThen fun _ ht => ⟨obeysMode_of_eq rfl rfl, ht⟩

theorem reaches_programLoop (start buf : Word) (n : Nat) {s : State} (h : IsIndirect s) :
    (programLoop start buf n s).Reaches IsIndirect s := by
  induction n generalizing s with
  | zero => exact ⟨.refl s, h⟩
  | succ n ih =>
    unfold programLoop
    split_ifs
    · exact ⟨.refl s, h⟩
    · exact (reaches_programChunk h start buf).andThen fun _ => ih

theorem endsIn_programBody (start length buf : Word) (s : State) :
    EndsIn (fun t => length ≠ 0 → IsIndirect t) s (programBody start length buf s) :=
  (((reaches_ensureIndirect start s).andThen fun t ht =>
    (reaches_programLoop start buf length.toNat (s := splitStart start length t) ht).after
      (obeysMode_of_eq rfl rfl)).finish_indirect okResponse).of_length length okResponse

end

/-! ### CHECKSUM and VERIFY

Once the window is mapped they make no call (R195, R205), so MODE stays as it is. -/

/-- From `s` to `t` there are reads alone, and MODE is kept. -/
def NoCalls (s t : State) : Prop :=
  t.mode = s.mode ∧ ∃ new, t.trace = s.trace ++ new ∧ ∀ e ∈ new, eventAnswer e = none

theorem noCalls_of_eq {s t : State} (hm : t.mode = s.mode) (ht : t.trace = s.trace) : NoCalls s t :=
  ⟨hm, [], by simp [ht], by simp⟩

theorem NoCalls.trans {s t u : State} (h : NoCalls s t) (k : NoCalls t u) : NoCalls s u := by
  obtain ⟨hm, es, ht, hes⟩ := h
  obtain ⟨km, fs, kt, kfs⟩ := k
  exact ⟨km.trans hm, es ++ fs, by rw [kt, ht, List.append_assoc],
    fun e he => (List.mem_append.1 he).elim (hes e) (kfs e)⟩

theorem noCalls_memReadOp (a n : Nat) (s : State) : NoCalls s (memReadOp a n s) :=
  ⟨rfl, _, rfl, by simp [eventAnswer]⟩

theorem noCalls_ramReadOp (a : Word) (s : State) : NoCalls s (ramReadOp a s) := ⟨rfl, _, rfl, by simp [eventAnswer]⟩

theorem noCalls_respond (r : Response) (s : State) : NoCalls s (respond r s) :=
  noCalls_of_eq (respond_mode r s) (respond_trace r s)

theorem noCalls_checksumLoop (n : Nat) (s : State) : NoCalls s (checksumLoop n s) := by
  induction n generalizing s with
  | zero => exact noCalls_of_eq rfl rfl
  | succ n ih =>
    have hword : NoCalls s (checksumWord s) :=
      (noCalls_memReadOp (s.cks.waddr.toNat + s.cks.cnt) 4 s).trans (noCalls_of_eq rfl rfl)
    unfold checksumLoop
    split_ifs
    · exact hword.trans (ih _)
    · exact noCalls_of_eq rfl rfl

theorem noCalls_checksumCore (start length seed : Word) (s : State) : NoCalls s (checksumCore start length seed s) :=
  (noCalls_of_eq (t := checksumStart start length seed s) rfl rfl).trans (noCalls_checksumLoop _ _)

theorem noCalls_verifyLoop (start buf ck : Word) (n : Nat) (s : State) : NoCalls s (verifyLoop start buf ck n s) := by
  induction n generalizing s with
  | zero => exact noCalls_respond _ s
  | succ n ih =>
    have hreads : NoCalls s (ramReadOp (buf + s.vfy.vidx) (memReadOp (start + s.vfy.vidx).toNat 1 s)) :=
      (noCalls_memReadOp _ _ s).trans (noCalls_ramReadOp _ _)
    unfold verifyLoop
    dsimp only
    split_ifs
    · exact (hreads.trans (noCalls_of_eq rfl rfl)).trans (ih _)
    · exact (hreads.trans (noCalls_of_eq rfl rfl)).trans (noCalls_respond _ _)

/-- Reads may stand in MAPPED, and leave it. -/
theorem disciplined_of_reads {es : List Event} (h : ∀ e ∈ es, eventAnswer e = none) :
    disciplined .mapped es = true ∧ modeAfterAll .mapped es = .mapped := by
  induction es with
  | nil => exact ⟨rfl, rfl⟩
  | cons e es ih =>
    have hrest := ih fun x hx => h x (List.mem_cons_of_mem _ hx)
    have hread := h e List.mem_cons_self
    cases e with
    | memRd | ramRd => exact hrest
    | send | poll | map | abort => cases hread

theorem NoCalls.endsIn {s t : State} (h : NoCalls s t) (hm : IsMapped s) : EndsIn IsMapped s t := by
  obtain ⟨hmode, new, ht, hreads⟩ := h
  obtain ⟨hdisciplined, hafter⟩ := disciplined_of_reads hreads
  rw [← hm] at hdisciplined
  refine ⟨⟨new, ht, hdisciplined, ?_⟩, fun _ => hmode.trans hm⟩
  rw [hmode, hm, hafter]

/-- A request that maps the window and then makes no call. -/
theorem endsIn_ensureMapped {f : State → State} (hf : ∀ t, NoCalls t (f t)) (ea : Word) (s : State) :
    EndsIn IsMapped s (finish (ensureMapped ea s) f) :=
  (reaches_ensureMapped ea s).finish fun t => (hf t).endsIn

/-- CHECKSUM from its sum on (R195). -/
theorem noCalls_checksumRest (start length seed : Word) (s : State) :
    let u := checksumCore start length seed s
    NoCalls s (respond { okResponse with checksum := u.cks.acc } u) :=
  (noCalls_checksumCore start length seed s).trans (noCalls_respond _ _)

/-- VERIFY from its sum on (R205). -/
theorem noCalls_verifyRest (start length seed buf : Word) (s : State) :
    let u := checksumCore start length seed s
    NoCalls s (verifyLoop start buf u.cks.acc length.toNat (verifyStart u)) :=
  ((noCalls_checksumCore start length seed s).trans (noCalls_of_eq rfl rfl)).trans (noCalls_verifyLoop _ _ _ _ _)

theorem endsIn_checksumBody (start length seed : Word) (s : State) :
    EndsIn (fun t => length ≠ 0 → IsMapped t) s (checksumBody start length seed s) :=
  (endsIn_ensureMapped (noCalls_checksumRest start length seed) start s).of_length length _

theorem endsIn_verifyBody (start length seed buf : Word) (s : State) :
    EndsIn (fun t => length ≠ 0 → IsMapped t) s (verifyBody start length seed buf s) :=
  (endsIn_ensureMapped (noCalls_verifyRest start length seed buf) start s).of_length length _

/-! ## Every request -/

/-- The mode an OK response of a request leaves (R185). -/
def EndMode : Instr → State → Prop
  | .init, t => MappedIfXip t
  | .program _ length _, t => length ≠ 0 → IsIndirect t
  | .eraseRange .., t | .eraseAll, t => IsIndirect t
  | .checksum _ length _, t | .verify _ length _ _, t => length ≠ 0 → IsMapped t
  | _, _ => True

theorem endsIn_runRequest {P : State → Prop} {op : BitVec 4} {needsInit : Bool} {extent : Nat} {body : State → State}
    {s t : State} (hb : ∀ s, EndsIn P s (body s)) (h : runRequest op needsInit extent body s = .next t) :
    EndsIn P s t := by
  obtain ⟨-, rfl⟩ := runRequest_eq_next.1 h
  exact (hb _).after (obeysMode_of_eq (accept_mode op s) (accept_trace op s))

theorem exec_request_endsIn {i : Instr} {s t : State} (hi : isRequest i = true) (h : exec i s = .next t) :
    EndsIn (EndMode i) s t := by
  cases i with
  | init => exact endsIn_runRequest endsIn_initBody h
  | program start length buf => exact endsIn_runRequest (endsIn_programBody start length buf) h
  | eraseRange start length => exact endsIn_runRequest (endsIn_eraseRangeBody start length) h
  | eraseAll => exact endsIn_runRequest endsIn_eraseAllBody h
  | checksum start length seed => exact endsIn_runRequest (endsIn_checksumBody start length seed) h
  | verify start length seed buf => exact endsIn_runRequest (endsIn_verifyBody start length seed buf) h
  | resetEnable | reset | writeEnable | readStatus | pageProgram | sectorErase | chipErase | quadRead | enter4Byte
  | send | poll | map | abort => cases hi

/-- Settles O49: every call of a request obeys MODE, since a toggle that is not answered OK ends it. -/
theorem modeDiscipline : Obligations.ModeDiscipline := fun _ _ _ hi h => (exec_request_endsIn hi h).obeys

/-! ## The toggle call a request starts with (R185) -/

theorem head?_of_extends {s t u : State} {e : Event} {new : List Event} (hu : u.trace = s.trace ++ [e])
    (h : Extends u t) (ht : t.trace = s.trace ++ new) : new.head? = some e := by
  have hp := h.trace
  rw [hu, ht, List.prefix_append_right_inj] at hp
  obtain ⟨rest, rfl⟩ := hp
  rfl

/-- A PROGRAM in MAPPED makes its ABORT first (R183). -/
theorem program_extends_abort {start length buf : Word} {s t : State} (h : exec (.program start length buf) s = .next t)
    (hlen : length ≠ 0) (hm : s.mode = .mapped) : Extends (abortOp (accept 2 s)) t := by
  obtain ⟨-, rfl⟩ := runRequest_eq_next.1 h
  rw [programBody, if_neg hlen, ensureIndirect, if_pos ((accept_mode 2 s).trans hm)]
  refine extends_of_steps (b := false)
    (steps_finish (steps_andThen (steps_orFail .refl start) fun t => ?_) (steps_respond _))
  refine Steps.trans ?_ (steps_programLoop start buf _ _)
  exact Steps.one (.regs _ _ rfl rfl rfl rfl rfl rfl rfl fun _ => rfl)

/-- A VERIFY in INDIRECT makes its MAP first (R184). -/
theorem verify_extends_map {start length seed buf : Word} {s t : State}
    (h : exec (.verify start length seed buf) s = .next t) (hlen : length ≠ 0) (hm : s.mode = .indirect) :
    Extends (mapOp (accept 6 s)) t := by
  obtain ⟨-, rfl⟩ := runRequest_eq_next.1 h
  rw [verifyBody, if_neg hlen, ensureMapped, if_pos ((accept_mode 6 s).trans hm)]
  refine extends_of_steps (b := false) (steps_finish (steps_orFail .refl start) fun t => ?_)
  refine (steps_checksumCore start length seed t).trans (Steps.trans ?_ (steps_verifyLoop start buf _ _ _))
  exact Steps.one (.regs _ _ rfl rfl rfl rfl rfl rfl rfl fun _ => rfl)

/-- A CHECKSUM in MAPPED makes no call (R184). -/
theorem checksum_noCalls {start length seed : Word} {s t : State} (h : exec (.checksum start length seed) s = .next t)
    (hm : s.mode = .mapped) : NoCalls s t := by
  obtain ⟨-, rfl⟩ := runRequest_eq_next.1 h
  refine (noCalls_of_eq (accept_mode 5 s) (accept_trace 5 s)).trans ?_
  unfold checksumBody
  split_ifs
  · exact noCalls_respond _ _
  · rw [ensureMapped, if_neg (by rw [accept_mode, hm]; decide), finish_going]
    exact noCalls_checksumRest start length seed _

/-- Settles O50: the end modes are those of `exec_request_endsIn`, the opening calls those of the toggle. -/
theorem modeSequences : Obligations.ModeSequences := by
  intro i s t h
  obtain ⟨hcfg, ⟨new, ht⟩, -⟩ := exec_extends h
  have hend (hi : isRequest i = true) := (exec_request_endsIn hi h).ok
  refine ⟨new, ht.symm, ?_⟩
  cases i with
  | init =>
    rw [← hcfg]
    exact hend rfl
  | program start length buf =>
    refine fun hlen => ⟨fun hok => hend rfl hok hlen, fun hm => ?_⟩
    have hopen := program_extends_abort h hlen hm
    exact ⟨_, head?_of_extends ((abortOp_trace _).trans (by rw [accept_trace])) hopen ht.symm⟩
  | eraseRange | eraseAll => exact hend rfl
  | checksum start length seed =>
    refine fun hlen => ⟨fun hok => hend rfl hok hlen, fun hm cmd r hmap => ?_⟩
    obtain ⟨-, es, hes, hreads⟩ := checksum_noCalls h hm
    obtain rfl : new = es := List.append_cancel_left (ht.trans hes)
    cases hreads _ hmap
  | verify start length seed buf =>
    refine fun hlen => ⟨fun hok => hend rfl hok hlen, fun hm => ?_⟩
    have hopen := verify_extends_map h hlen hm
    exact ⟨_, head?_of_extends ((mapOp_trace _).trans (by rw [accept_trace, accept_cfg])) hopen ht.symm⟩
  | resetEnable | reset | writeEnable | readStatus | pageProgram | sectorErase | chipErase | quadRead | enter4Byte
  | send | poll | map | abort => trivial

end Sys2Proof.Machine
end

section
/-! PROOFS of the family 45_checksum_verify: the closed form of the checksum and its window reads (R195 to R199), that a
checksum repeats while no program or erase is sent (R200), and what a VERIFY reads and reports (R205 to R207). -/

namespace Sys2Proof.Machine

/-! ## Sums of flash bytes (R199) -/

theorem flashSum_congr {f g : Nat → Byte} {x y n : Nat} (h : ∀ i, i < n → f (x + i) = g (y + i)) :
    flashSum f x n = flashSum g y n := by
  induction n generalizing x y with
  | zero => rfl
  | succ n ih =>
    have hrest : flashSum f (x + 1) n = flashSum g (y + 1) n := ih fun i hi => by
      simpa only [Nat.add_assoc, Nat.add_comm 1] using h (i + 1) (Nat.succ_lt_succ hi)
    rw [flashSum, flashSum, hrest, show f x = g y from h 0 (Nat.succ_pos n)]

theorem flashSum_add (f : Nat → Byte) (x m n : Nat) :
    flashSum f x (m + n) = flashSum f x m + flashSum f (x + m) n := by
  induction m generalizing x with
  | zero => simp [flashSum]
  | succ m ih =>
    rw [Nat.succ_add, flashSum, flashSum, ih, BitVec.add_assoc, Nat.add_right_comm x 1 m, Nat.add_assoc x m 1]

/-- A sum as the part inside the first `m` bytes and the rest. -/
theorem flashSum_split (f : Nat → Byte) (x m n : Nat) :
    flashSum f x n = flashSum f x (min m n) + flashSum f (x + m) (n - m) := by
  obtain h | h := Nat.le_total m n
  · rw [Nat.min_eq_left h, ← flashSum_add, Nat.add_sub_cancel' h]
  · rw [Nat.min_eq_right h, Nat.sub_eq_zero_of_le h, flashSum, add_zero]

theorem foldl_zext32_range' (f : Nat → Byte) (x n : Nat) (acc : Word) :
    ((List.range' x n).map fun i => zext32 (f i)).foldl (· + ·) acc = acc + flashSum f x n := by
  induction n generalizing x acc with
  | zero => exact (BitVec.add_zero acc).symm
  | succ n ih => rw [List.range'_succ, List.map_cons, List.foldl_cons, ih, flashSum, BitVec.add_assoc]

/-! ## One word of ChecksumCore (R197) -/

section
variable (cfg : Cfg) (d : Device) (a : Nat)

/-- Lanes `lo .. hi` of the word at `a` are the flash bytes from `a + lo` on (R50, R197). -/
theorem laneSum_windowBytes {lo hi : Nat} (h : hi < 4) :
    laneSum (windowBytes cfg d a 4) lo hi = flashSum (windowByte cfg d) (a + lo) (hi + 1 - lo) := by
  rw [laneSum, foldl_zext32_range' (fun i => (windowBytes cfg d a 4).getD i 0), zero_add]
  refine flashSum_congr fun i hi => ?_
  rw [List.getD, windowBytes_getElem? cfg d a (by omega), Option.getD_some, Nat.add_assoc]

/-- The bytes that a word adds, with `left` bytes still to be read: from LEAD on in the first word, else all four but
for TRIM at the end of the last word (R197). -/
theorem wordSum_windowBytes (lead trim : BitVec 2) {left : Nat} (h : 4 ∣ left) (hpos : 0 < left) :
    wordSum (windowBytes cfg d a 4) lead trim left =
      flashSum (windowByte cfg d) (a + lead.toNat)
        (if lead = 0 then min 4 (left - trim.toNat) else 4 - lead.toNat) := by
  unfold wordSum
  by_cases hlead : lead = 0
  · rw [if_neg (not_not.2 hlead), if_pos hlead, hlead]
    by_cases hlast : trim ≠ 0 ∧ left = 4
    · rw [if_pos hlast, laneSum_windowBytes cfg d a (by omega), hlast.2]
      congr 1
      omega
    · rw [if_neg hlast, laneSum_windowBytes cfg d a (by omega)]
      congr 1
      obtain htrim | hleft : trim = 0 ∨ left ≠ 4 := (not_and_or.1 hlast).imp_left not_not.1
      · rw [htrim, show (0 : BitVec 2).toNat = 0 from rfl]
        omega
      · omega
  · rw [if_pos hlead, if_neg hlead, laneSum_windowBytes cfg d a (by omega)]

end

/-! ## ChecksumCore (R196, R197) -/

theorem checksumWord_left {m : Nat} {s : State} (h : s.cks.total = s.cks.cnt + 4 * (m + 1)) :
    (checksumWord s).cks.total = (checksumWord s).cks.cnt + 4 * m := by
  change s.cks.total = s.cks.cnt + 4 + 4 * m
  omega

/-- With `m` words still to be read, the loop reads them. -/
theorem checksumLoop_eq_iterate {n m : Nat} {s : State} (htotal : s.cks.total = s.cks.cnt + 4 * m) (hn : m ≤ n) :
    checksumLoop n s = checksumWord^[m] s := by
  induction n generalizing m s with
  | zero => rw [Nat.le_zero.1 hn]; rfl
  | succ n ih =>
    unfold checksumLoop
    cases m with
    | zero => rw [if_neg (by omega)]; rfl
    | succ m =>
      rw [if_pos (by omega), ih (checksumWord_left htotal) (by omega), Function.iterate_succ_apply]

/-- `m` window reads of four bytes from offset `a` on, with the bytes they show (R197). -/
def wordsFrom (f : Nat → Byte) (a m : Nat) : List Event :=
  (List.range m).map fun k => .memRd (a + 4 * k) ((List.range 4).map fun i => f (a + 4 * k + i))

theorem wordsFrom_succ (f : Nat → Byte) (a m : Nat) :
    wordsFrom f a (m + 1) = .memRd a ((List.range 4).map fun i => f (a + i)) :: wordsFrom f (a + 4) m := by
  have hrange : List.range (m + 1) = 0 :: (List.range m).map Nat.succ := List.range_succ_eq_map
  rw [wordsFrom, hrange, List.map_cons, List.map_map]
  refine congrArg (List.cons _) (List.map_congr_left fun k _ => ?_)
  rw [Function.comp_apply, Nat.succ_eq_add_one, Nat.mul_add_one, Nat.add_comm (4 * k), ← Nat.add_assoc]

section
variable {s : State} {m : Nat}

theorem checksumWord_iterate_trace (s : State) (m : Nat) : (checksumWord^[m] s).trace =
    s.trace ++ wordsFrom (windowByte s.cfg s.dev) (s.cks.waddr.toNat + s.cks.cnt) m := by
  induction m generalizing s with
  | zero => exact (List.append_nil _).symm
  | succ m ih =>
    rw [Function.iterate_succ_apply, ih, checksumWord_trace, wordsFrom_succ, List.append_assoc]
    rfl

/-- What the next word adds, with `m + 1` words still to be read. -/
theorem checksumWord_acc (htotal : s.cks.total = s.cks.cnt + 4 * (m + 1)) :
    (checksumWord s).cks.acc = s.cks.acc +
      flashSum (windowByte s.cfg s.dev) (s.cks.waddr.toNat + s.cks.cnt + s.cks.lead.toNat)
        (if s.cks.lead = 0 then min 4 (4 * (m + 1) - s.cks.trim.toNat) else 4 - s.cks.lead.toNat) := by
  have hleft : s.cks.total - s.cks.cnt = 4 * (m + 1) := by omega
  rw [checksumWord_cks, addWord, readLanes, hleft,
    wordSum_windowBytes _ _ _ _ _ (Nat.dvd_mul_right ..) (by omega)]

/-- Once LEAD is used up, `m` words add every byte but the last TRIM (R197). -/
theorem checksumWord_iterate_acc (hlead : s.cks.lead = 0) (htotal : s.cks.total = s.cks.cnt + 4 * m) :
    (checksumWord^[m] s).cks.acc = s.cks.acc +
      flashSum (windowByte s.cfg s.dev) (s.cks.waddr.toNat + s.cks.cnt) (4 * m - s.cks.trim.toNat) := by
  induction m generalizing s with
  | zero => simp [flashSum]
  | succ m ih =>
    have hword := checksumWord_acc htotal
    rw [if_pos hlead, hlead] at hword
    rw [Function.iterate_succ_apply, ih rfl (checksumWord_left htotal), hword,
      flashSum_split _ _ 4 (4 * (m + 1) - _), add_assoc, Nat.mul_add_one, Nat.sub_right_comm, Nat.add_sub_cancel]
    rfl

end

/-! ## The closed form (R199) -/

theorem leadOf_toNat (start : Word) : (leadOf start).toNat = start.toNat % 4 := BitVec.toNat_setWidth ..

theorem leadOf_eq_zero_iff (start : Word) : leadOf start = 0 ↔ start.toNat % 4 = 0 := by
  rw [← leadOf_toNat]
  exact BitVec.toNat_inj.symm

theorem ceil4_spec (e : Nat) : ceil4 e % 4 = 0 ∧ e ≤ ceil4 e ∧ ceil4 e < e + 4 := by
  unfold ceil4
  omega

theorem floorTo_four_spec (a : Nat) : floorTo 4 a % 4 = 0 ∧ floorTo 4 a + a % 4 = a := by
  unfold floorTo
  omega

theorem four_dvd_span (start e : Nat) : 4 ∣ ceil4 e - floorTo 4 start :=
  Nat.dvd_sub (Nat.dvd_of_mod_eq_zero (ceil4_spec e).1) (Nat.dvd_of_mod_eq_zero (floorTo_four_spec start).1)

theorem trimOf_toNat (e : Nat) : (trimOf e).toNat = ceil4 e - e := by
  rw [trimOf, BitVec.toNat_ofNat]
  have := ceil4_spec e
  omega

/-- The closed form, by its words: the first from LEAD on, the others without the last TRIM bytes (R197, R199). -/
theorem checksumValue_eq_words (f : Nat → Byte) {start length m : Nat} (seed : Word)
    (hm : ceil4 (start + length) - floorTo 4 start = 4 * (m + 1)) :
    checksumValue f start length seed = seed +
      flashSum f start (if start % 4 = 0 then min 4 (4 * (m + 1) - (ceil4 (start + length) - (start + length)))
        else 4 - start % 4) +
      flashSum f (floorTo 4 start + 4) (4 * m - (ceil4 (start + length) - (start + length))) := by
  obtain ⟨hce, hle, hlt⟩ := ceil4_spec (start + length)
  obtain ⟨hfl, hadd⟩ := floorTo_four_spec start
  rw [checksumValue, add_assoc]
  by_cases hover : start % 4 ≠ 0 ∧ (start + length) % 4 ≠ 0 ∧ ceil4 (start + length) = floorTo 4 start + 4
  · obtain rfl : m = 0 := by omega
    rw [if_pos hover, if_neg hover.1, Nat.mul_zero, Nat.zero_sub, flashSum, add_zero,
      show floorTo 4 start + 4 - start = 4 - start % 4 by omega]
  · rw [if_neg hover]
    by_cases hlead : start % 4 = 0
    · have hlen : 4 * (m + 1) - (ceil4 (start + length) - (start + length)) = length := by omega
      have hrest : 4 * m - (ceil4 (start + length) - (start + length)) = length - 4 := by omega
      rw [if_pos hlead, hlen, hrest, flashSum_split f start 4 length, show floorTo 4 start = start by omega]
    · have hlen : length = 4 - start % 4 + (4 * m - (ceil4 (start + length) - (start + length))) := by omega
      have hnext : floorTo 4 start + 4 = start + (4 - start % 4) := by omega
      rw [if_neg hlead, hnext, ← flashSum_add, ← hlen]

section
variable (start length seed : Word) (s : State)

theorem checksumCore_eq_iterate {m : Nat}
    (hm : ceil4 (start.toNat + length.toNat) - floorTo 4 start.toNat = 4 * m) :
    checksumCore start length seed s = checksumWord^[m] (checksumStart start length seed s) := by
  refine checksumLoop_eq_iterate (hm.trans (Nat.zero_add _).symm) ?_
  change m ≤ ceil4 (start.toNat + length.toNat) - floorTo 4 start.toNat
  omega

theorem checksumStart_waddr : (checksumStart start length seed s).cks.waddr.toNat = floorTo 4 start.toNat := by
  obtain ⟨-, hadd⟩ := floorTo_four_spec start.toNat
  rw [checksumStart, BitVec.toNat_ofNat]
  omega

/-- ChecksumCore reads the words of R197 in order. -/
theorem checksumCore_trace : (checksumCore start length seed s).trace =
    s.trace ++ wordReads (windowByte s.cfg s.dev) start.toNat length.toNat := by
  have hspan := four_dvd_span start.toNat (start.toNat + length.toNat)
  rw [checksumCore_eq_iterate _ _ _ _ (Nat.mul_div_cancel' hspan).symm, checksumWord_iterate_trace,
    checksumStart_waddr]
  rfl

/-- ChecksumCore leaves the closed form in ACC (R199). -/
theorem checksumCore_acc (hlen : length ≠ 0) : (checksumCore start length seed s).cks.acc =
    checksumValue (windowByte s.cfg s.dev) start.toNat length.toNat seed := by
  have hpos : length.toNat ≠ 0 := fun h => hlen (BitVec.eq_of_toNat_eq h)
  obtain ⟨-, hle, -⟩ := ceil4_spec (start.toNat + length.toNat)
  obtain ⟨-, hadd⟩ := floorTo_four_spec start.toNat
  obtain ⟨n, hn⟩ := four_dvd_span start.toNat (start.toNat + length.toNat)
  obtain ⟨m, rfl⟩ : ∃ m, n = m + 1 := Nat.exists_eq_succ_of_ne_zero (by omega)
  have hleft : (checksumStart start length seed s).cks.total =
      (checksumStart start length seed s).cks.cnt + 4 * (m + 1) := hn.trans (Nat.zero_add _).symm
  rw [checksumCore_eq_iterate _ _ _ _ hn, Function.iterate_succ_apply,
    checksumWord_iterate_acc rfl (checksumWord_left hleft), checksumWord_acc hleft, checksumValue_eq_words _ seed hn,
    ← trimOf_toNat, checksumWord_cks, addWord, checksumStart_waddr]
  simp only [checksumStart, leadOf_toNat, leadOf_eq_zero_iff, Nat.add_zero, Nat.zero_add, hadd]
  rfl

end

/-! ## The mode toggle before a checksum (R184) -/

/-- `u` is reached from `s` and is in MAPPED, with the same configuration and host, and the window shows the same bytes
(R53, R59). -/
structure SameWindow (s u : State) : Prop where
  mode : u.mode = .mapped
  cfg : u.cfg = s.cfg
  host : u.host = s.host
  flash : u.dev.flash = s.dev.flash
  window : windowByte u.cfg u.dev = windowByte s.cfg s.dev

theorem SameWindow.trans {s t u : State} (h : SameWindow s t) (k : SameWindow t u) : SameWindow s u :=
  ⟨k.mode, k.cfg.trans h.cfg, k.host.trans h.host, k.flash.trans h.flash, k.window.trans h.window⟩

theorem SameWindow.respond {s u : State} (h : SameWindow s u) (r : Response) : SameWindow s (respond r u) :=
  h.trans ⟨(respond_mode r u).trans h.mode, respond_cfg r u, respond_host r u, by rw [respond_dev],
    by rw [respond_cfg, respond_dev]⟩

/-- `u` is `s` after EnsureMapped, its MAP answered OK where one was needed (R182, R184). -/
structure ToMapped (s u : State) : Prop extends SameWindow s u where
  trace : u.trace = s.trace ++ toggleTrace s.cfg.cat .mapped s.mode

theorem toMapped_of_going {ea : Word} {s u : State} (h : ensureMapped ea s = .going u) : ToMapped s u := by
  obtain ⟨hm, e⟩ | ⟨hm, ha, e⟩ | ⟨-, -, e⟩ := ensureMapped_cases ea s <;> rw [h] at e <;> cases e
  · exact ⟨⟨hm, rfl, rfl, rfl, rfl⟩, by simp [toggleTrace, hm]⟩
  · have hwindow (a : Nat) : windowByte s.cfg (mapOp s).dev a = windowByte s.cfg s.dev a :=
      ((sameContents_mapOp s).windowByte s.cfg a).trans (windowByte_disturb s.cfg s.dev a)
    exact ⟨⟨mapOp_mode_of_ok ha, rfl, rfl, rfl, funext hwindow⟩, by simp [toggleTrace, hm, ha]⟩

theorem ToMapped.of_accept {op : BitVec 4} {s u : State} (h : ToMapped (accept op s) u) : ToMapped s u := by
  obtain ⟨⟨hm, hc, hh, hf, hw⟩, ht⟩ := h
  simp only [accept_mode, accept_cfg, accept_host, accept_trace, accept_dev] at hc hh hf hw ht
  exact ⟨⟨hm, hc, hh, hf, hw⟩, ht⟩

theorem ensureMapped_ended {ea : Word} {s u : State} (h : ensureMapped ea s = .ended u) :
    s.mode = .indirect ∧ callAnswer (nextDraw s.dev) = .busError ∧ u = fail .busError ea (mapOp s) := by
  obtain ⟨-, e⟩ | ⟨-, -, e⟩ | ⟨hm, ha, e⟩ := ensureMapped_cases ea s <;> rw [h] at e <;> cases e
  exact ⟨hm, ha, rfl⟩

/-- EnsureMapped with its MAP, where one is needed, answered OK. -/
theorem toMapped_of_obliges {s : State} (ho : obliges (toggleCalls .mapped s.mode) s.dev.script = true)
    (op : BitVec 4) (ea : Word) : ∃ u, ensureMapped ea (accept op s) = .going u ∧ ToMapped s u := by
  cases hu : ensureMapped ea (accept op s) with
  | going u => exact ⟨u, rfl, (toMapped_of_going hu).of_accept⟩
  | ended u =>
    obtain ⟨hm, ha, -⟩ := ensureMapped_ended hu
    rw [accept_mode] at hm
    rw [accept_dev] at ha
    rw [hm] at ho
    cases ha.symm.trans (callAnswer_of_obliges ho).1

/-! ## CHECKSUM (R195, R199, R200) -/

/-- `u` is `s` after EnsureMapped and ChecksumCore (R195, R205): the closed form is in ACC, and the words of the range
have been read. -/
structure Summed (start length seed : Word) (s u : State) : Prop extends SameWindow s u where
  trace : u.trace = s.trace ++ toggleTrace s.cfg.cat .mapped s.mode
    ++ wordReads (windowByte s.cfg s.dev) start.toNat length.toNat
  acc : u.cks.acc = checksumValue (windowByte s.cfg s.dev) start.toNat length.toNat seed

section
variable {start length seed : Word} {s t u : State}

theorem sameWindow_checksumCore (hm : s.mode = .mapped) : SameWindow s (checksumCore start length seed s) := by
  have hreads := onlyReads_checksumCore start length seed s
  have hsteps := steps_checksumCore (b := false) start length seed s
  have hcfg := (extends_of_steps hsteps).cfg
  exact ⟨hreads.mode.trans hm, hcfg, (keepsHost_of_steps hsteps).host, hreads.dev.flash,
    funext fun a => hcfg ▸ hreads.dev.windowByte s.cfg a⟩

theorem ToMapped.summed (h : ToMapped s u) (hlen : length ≠ 0) :
    Summed start length seed s (checksumCore start length seed u) := by
  refine ⟨h.toSameWindow.trans (sameWindow_checksumCore h.mode), ?_, ?_⟩
  · rw [checksumCore_trace, h.window, h.trace]
  · rw [checksumCore_acc _ _ _ _ hlen, h.window]

/-- A CHECKSUM whose mapping was answered OK. -/
theorem checksumBody_of_going (hlen : length ≠ 0) (hu : ensureMapped start s = .going u) :
    checksumBody start length seed s =
      respond { okResponse with checksum := (checksumCore start length seed u).cks.acc }
        (checksumCore start length seed u) := by
  rw [checksumBody, if_neg hlen, hu, finish_going]

/-- A CHECKSUM answered OK has the closed form, whatever calls it made, and ends in MAPPED. -/
theorem exec_checksum_ok (h : exec (.checksum start length seed) s = .next t) (hlen : length ≠ 0)
    (hok : t.rsp.status = .ok) : t.mode = .mapped ∧ windowByte t.cfg t.dev = windowByte s.cfg s.dev ∧
      t.rsp.checksum = checksumValue (windowByte s.cfg s.dev) start.toNat length.toNat seed := by
  obtain ⟨-, rfl⟩ := runRequest_eq_next.1 h
  cases hu : ensureMapped start (accept 5 s) with
  | going u =>
    have hsummed := (toMapped_of_going hu).of_accept.summed (start := start) (seed := seed) hlen
    rw [checksumBody_of_going hlen hu]
    simpa using ⟨hsummed.mode, hsummed.window, hsummed.acc⟩
  | ended u =>
    obtain ⟨-, -, rfl⟩ := ensureMapped_ended hu
    rw [checksumBody, if_neg hlen, hu, finish_ended, fail_rsp] at hok
    cases hok

theorem exec_inv {i : Instr} (h : exec i s = .next t) (hs : s.Inv) : t.Inv := by
  obtain ⟨hmem, hrest⟩ := (inv_iff s).1 hs
  exact (inv_iff t).2 ⟨exec_memoriesOk h hmem, exec_atRest h hrest⟩

/-- A CHECKSUM of length 0 answers its seed (R195). -/
theorem exec_checksum_zero (h : exec (.checksum start 0 seed) s = .next t) : t.rsp.checksum = seed := by
  obtain ⟨-, rfl⟩ := runRequest_eq_next.1 h
  rw [checksumBody, if_pos rfl, respond_rsp]

end

/-- Settles O31: ChecksumCore leaves the closed form in ACC and reads the words of the range. -/
theorem checksumClosedForm : Obligations.ChecksumClosedForm := by
  intro s start length seed ⟨hw, hinit, hfit⟩ hlen ho
  obtain ⟨u, hu, hto⟩ := toMapped_of_obliges ho 5 start
  have hsum : Summed start length seed s (checksumCore start length seed u) := hto.summed hlen
  have hx := (exec_checksum start length seed s).trans (runRequest_of_extent hw hinit hfit 5 _)
  rw [checksumBody_of_going hlen hu] at hx
  refine ⟨_, hx, ?_, (respond_trace _ _).trans hsum.trace, (hsum.respond _).mode, respond_estate _ _,
    respond_curOp _ _, ((exec_keepsHost hx).initDone rfl).trans hinit, (hsum.respond _).flash⟩
  rw [respond_rsp, hsum.acc]
  rfl

/-- Settles O32: both sums are the closed form of what the window shows. The first CHECKSUM leaves the device quiet, so
the window shows the same bytes until a program or erase is sent. -/
theorem checksumIsIdempotent : Obligations.ChecksumIsIdempotent := by
  intro s t t' u between start length seed hinv h hok hbetween ⟨new, ht, hn⟩ h' hok'
  by_cases hlen : length = 0
  · subst hlen
    rw [exec_checksum_zero h, exec_checksum_zero h']
  · obtain ⟨hmode, hwindow, hsum⟩ := exec_checksum_ok h hlen hok
    obtain ⟨-, -, hsum'⟩ := exec_checksum_ok h' hlen hok'
    obtain ⟨-, -, -, -, -, -, hquiet⟩ := exec_inv h hinv
    have hsame : windowByte t'.cfg t'.dev = windowByte t.cfg t.dev :=
      funext (windowByte_of_runLines hbetween ht hn (hquiet hmode))
    rw [hsum', hsum, hsame, hwindow]

/-! ## VERIFY (R205 to R207) -/

/-- Byte `i` of the range differs from its buffer byte (R206). -/
def DiffersAt (start buf : Word) (s : State) (i : Nat) : Prop :=
  windowByte s.cfg s.dev (start.toNat + i) ≠ bufferByte s.host.ram buf i

/-- `u` is reached from `s`, and its trace is `before` and then the pairs of reads for the first `k` bytes (R205). -/
structure Compared (start buf : Word) (s : State) (before : List Event) (k : Nat) (u : State) : Prop
    extends SameWindow s u where
  trace : u.trace = before ++ compareReads (windowByte s.cfg s.dev) s.host.ram start.toNat buf k

/-- How a VERIFY of `n` bytes can end: with all of them equal, or at the first that differs (R206, R207). -/
inductive VerifyEnds (start buf ck : Word) (s : State) (before : List Event) (n : Nat) : State → Prop where
  | equal {u : State} (all : ∀ i, i < n → ¬ DiffersAt start buf s i) (reads : Compared start buf s before n u) :
      VerifyEnds start buf ck s before n (respond { okResponse with checksum := ck } u)
  | mismatch {u : State} {k : Nat} (lt : k < n) (first : ∀ i, i < k → ¬ DiffersAt start buf s i)
      (differs : DiffersAt start buf s k) (reads : Compared start buf s before (k + 1) u) :
      VerifyEnds start buf ck s before n
        (respond { okResponse with checksum := ck, mmValid := true, mmAddr := start + BitVec.ofNat 32 k } u)

/-- After the two reads of a compared byte pair, with whatever the comparator's registers then hold (R205). -/
def pairRead (start buf : Word) (x : Verifier) (s : State) : State :=
  { ramReadOp (buf + s.vfy.vidx) (memReadOp (start + s.vfy.vidx).toNat 1 s) with vfy := x }

theorem compareReads_succ (f : Nat → Byte) (ram : List Host.Cell) (start : Nat) (buf : Word) (k : Nat) :
    compareReads f ram start buf (k + 1) = compareReads f ram start buf k ++
      [.memRd (start + k) [f (start + k)], .ramRd (buf + BitVec.ofNat 32 k) (bufferByte ram buf k)] := by
  simp [compareReads, List.range_succ]

theorem verifyLoop_succ (start buf ck : Word) (n : Nat) (s : State) :
    verifyLoop start buf ck (n + 1) s =
      if windowByte s.cfg s.dev (start + s.vfy.vidx).toNat = ramByte s.host.ram (buf + s.vfy.vidx) then
        verifyLoop start buf ck n (pairRead start buf { s.vfy with vidx := s.vfy.vidx + 1 } s)
      else
        respond { okResponse with checksum := ck, mmValid := true, mmAddr := start + s.vfy.vidx }
          (pairRead start buf { s.vfy with mmValid := true, mmAddr := start + s.vfy.vidx } s) := rfl

section
variable {start buf ck : Word} {s u : State} {before : List Event} {k n : Nat}

theorem offset_toNat (hfit : start.toNat + k < 2 ^ 32) : (start + BitVec.ofNat 32 k).toNat = start.toNat + k := by
  rw [BitVec.toNat_add, BitVec.toNat_ofNat]
  omega

theorem Compared.next (h : Compared start buf s before k u) (hidx : u.vfy.vidx = BitVec.ofNat 32 k)
    (hfit : start.toNat + k < 2 ^ 32) (x : Verifier) :
    Compared start buf s before (k + 1) (pairRead start buf x u) := by
  refine ⟨h.toSameWindow.trans ⟨h.mode, rfl, rfl, rfl, rfl⟩, ?_⟩
  have htrace : (pairRead start buf x u).trace = u.trace ++
      [.memRd (start + u.vfy.vidx).toNat [windowByte u.cfg u.dev (start + u.vfy.vidx).toNat],
        .ramRd (buf + u.vfy.vidx) (ramByte u.host.ram (buf + u.vfy.vidx))] := List.append_assoc ..
  rw [htrace, hidx, offset_toNat hfit, h.window, h.host, h.trace, compareReads_succ, List.append_assoc]
  rfl

/-- The loop of R205 from byte `k` on, every byte before it being equal. -/
theorem verifyLoop_ends (m : Nat) (h : Compared start buf s before k u) (hidx : u.vfy.vidx = BitVec.ofNat 32 k)
    (hequal : ∀ i, i < k → ¬ DiffersAt start buf s i) (hn : k + m = n) (hfit : start.toNat + n < 2 ^ 32) :
    VerifyEnds start buf ck s before n (verifyLoop start buf ck m u) := by
  induction m generalizing k u with
  | zero =>
    obtain rfl : k = n := hn
    exact .equal hequal h
  | succ m ih =>
    have hnext := h.next hidx (by omega)
    rw [verifyLoop_succ, hidx, offset_toNat (by omega), h.window, h.host]
    split_ifs with hsame
    · refine ih (hnext _) ?_ (fun i hi => ?_) (by omega)
      · exact (BitVec.ofNat_add ..).symm
      · obtain hlt | rfl := Nat.lt_succ_iff_lt_or_eq.1 hi
        · exact hequal i hlt
        · exact not_not.2 hsame
    · exact .mismatch (by omega) hequal hsame (hnext _)

/-! What a VERIFY that has ended answers, in both cases and in each (R206, R207). -/

theorem VerifyEnds.answers {t : State} (h : VerifyEnds start buf ck s before n t) :
    SameWindow s t ∧ t.estate = .idle ∧ t.curOp = 0 ∧ t.rsp.status = .ok ∧ t.rsp.errAddr = 0 ∧
      t.rsp.checksum = ck := by
  cases h with
  | equal _ reads | mismatch _ _ _ reads =>
    exact ⟨reads.respond _, by simp [okResponse, Response.zero]⟩

theorem VerifyEnds.of_equal {t : State} (h : VerifyEnds start buf ck s before n t)
    (hequal : ∀ i, i < n → ¬ DiffersAt start buf s i) : t.rsp.mmValid = false ∧ t.rsp.mmAddr = 0 ∧
      t.trace = before ++ compareReads (windowByte s.cfg s.dev) s.host.ram start.toNat buf n := by
  cases h with
  | equal _ reads =>
    rw [respond_rsp, respond_trace]
    exact ⟨rfl, rfl, reads.trace⟩
  | mismatch lt _ differs => exact absurd differs (hequal _ lt)

theorem VerifyEnds.of_mismatch {t : State} (h : VerifyEnds start buf ck s before n t)
    (hfit : start.toNat + n < 2 ^ 32) (hk : k < n) (hfirst : ∀ i, i < k → ¬ DiffersAt start buf s i)
    (hdiffers : DiffersAt start buf s k) : t.rsp.mmValid = true ∧ t.rsp.mmAddr.toNat = start.toNat + k ∧
      t.trace = before ++ compareReads (windowByte s.cfg s.dev) s.host.ram start.toNat buf (k + 1) := by
  cases h with
  | equal all _ => exact absurd hdiffers (all k hk)
  | @mismatch u j lt first differs reads =>
    obtain rfl : j = k :=
      le_antisymm (not_lt.1 fun hlt => first k hlt hdiffers) (not_lt.1 fun hlt => hfirst j hlt differs)
    rw [respond_rsp, respond_trace]
    exact ⟨rfl, offset_toNat (by omega), reads.trace⟩

end

/-- VERIFY compares the range once its sum is complete (R205). -/
theorem Summed.verifyEnds {start length seed : Word} {s u : State} (h : Summed start length seed s u) (buf : Word)
    (hfit : start.toNat + length.toNat ≤ 2 ^ 32 - 1) :
    VerifyEnds start buf u.cks.acc s u.trace length.toNat
      (verifyLoop start buf u.cks.acc length.toNat (verifyStart u)) :=
  verifyLoop_ends length.toNat ⟨h.toSameWindow.trans ⟨h.mode, rfl, rfl, rfl, rfl⟩, (List.append_nil _).symm⟩ rfl
    (fun _ hi => absurd hi (Nat.not_lt_zero _)) (Nat.zero_add _) (by omega)

/-- Settles O33: the sum is complete before the loop, which ends at the first differing byte or with all of them
equal. -/
theorem verifyDecides : Obligations.VerifyDecides := by
  intro s start length seed buf ⟨hw, hinit, hfit⟩ hlen ho
  obtain ⟨u, hu, hto⟩ := toMapped_of_obliges ho 6 start
  have hsum : Summed start length seed s (checksumCore start length seed u) := hto.summed hlen
  have hends := hsum.verifyEnds buf hfit
  have hx := (exec_verify start length seed buf s).trans (runRequest_of_extent hw hinit hfit 6 _)
  rw [verifyBody, if_neg hlen, hu, finish_going] at hx
  obtain ⟨hsame, hidle, hop, hok, haddr, hck⟩ := hends.answers
  rw [← hsum.trace]
  exact ⟨_, hx, hok, haddr, hck.trans hsum.acc, hsame.mode, hidle, hop,
    ((exec_keepsHost hx).initDone rfl).trans hinit, hsame.flash, hends.of_equal,
    fun k => hends.of_mismatch (by omega)⟩

end Sys2Proof.Machine
end

section
/-! PROOFS of the family 46_init_and_dispatch: the requests refused before INIT (R228), and what INIT issues, reports
and leaves of the flash (R22, R34, R220). -/

namespace Sys2Proof.Machine

/-! ## Requests before INIT (R228) -/

theorem runRequest_of_not_initialised {s : State} (hw : s.cfg.wf = true) (hd : s.initDone = false) (op : BitVec 4)
    (extent : Nat) (body : State → State) : runRequest op true extent body s = .refused .notInitialised := by
  simp [runRequest, requestRefusal, hw, hd]

/-- Settles O38: the five requests ask for INIT_DONE, which `requestRefusal` checks after the configuration. -/
theorem requestsBeforeInitAreRefused : Obligations.RequestsBeforeInitAreRefused := by
  intro i s hi hne hw hd
  cases i with
  | init => exact absurd rfl hne
  | program | eraseRange | eraseAll | checksum | verify => exact runRequest_of_not_initialised hw hd _ _ _
  | resetEnable | reset | writeEnable | readStatus | pageProgram | sectorErase | chipErase | quadRead | enter4Byte
  | send | poll | map | abort => cases hi

/-! ## The lines of INIT (R220)

`Run.Inits` follows the lines of an INIT that began in `s₀`, whatever the answers: it says what a line's calls and
events are, and how a failing one ends the request. -/

/-- From `s` to `t` INIT_DONE and every flash byte are kept. -/
structure KeepsData (s t : State) : Prop where
  initDone : t.initDone = s.initDone
  byte : ∀ a, flashByte t.dev a = flashByte s.dev a

theorem KeepsData.refl (s : State) : KeepsData s s := ⟨rfl, fun _ => rfl⟩

theorem KeepsData.trans {s t u : State} (h : KeepsData s t) (k : KeepsData t u) : KeepsData s u :=
  ⟨k.initDone.trans h.initDone, fun a => (k.byte a).trans (h.byte a)⟩

/-- MODE once a call of INIT has failed: INDIRECT, or unchanged by an ABORT that was INIT's only call (R181, R220). -/
def ModeAfterFailure (s₀ t : State) : Prop :=
  t.mode = .indirect ∨ (t.mode = s₀.mode ∧ t.trace = s₀.trace ++ [.abort .busError])

/-- `t` is `s` after the call `c` of INIT, whose event is `e` where it is answered OK. -/
structure InitCall (s₀ : State) (c : Call) (e : Event) (s t : State) : Prop where
  keeps : KeepsData s t
  trace : t.seq.ret = .ok → t.trace = s.trace ++ [e]
  script : ∀ rest, obliges (c :: rest) s.dev.script = true → t.seq.ret = .ok ∧ obliges rest t.dev.script = true
  mode : t.seq.ret ≠ .ok → ModeAfterFailure s₀ t

/-- From `s` the lines with these calls, all answered OK, had these events and came to `t`. -/
structure InitGoes (calls : List Call) (es : List Event) (s t : State) : Prop where
  keeps : KeepsData s t
  trace : t.trace = s.trace ++ es
  script : ∀ rest, obliges (calls ++ rest) s.dev.script = true → obliges rest t.dev.script = true

/-- From `s` the lines with these calls ended in the response of a failing one. -/
structure InitFails (s₀ : State) (calls : List Call) (s t : State) : Prop where
  keeps : KeepsData s t
  script : ∀ rest, obliges (calls ++ rest) s.dev.script ≠ true
  mode : ModeAfterFailure s₀ t
  rsp : t.rsp = { Response.zero with status := .initError }

/-- A run of lines of INIT from `s`: it goes on, and then `P` holds, or has ended. -/
def Run.Inits (s₀ : State) (calls : List Call) (es : List Event) (P : State → Prop) (s : State) : Run → Prop
  | .going t => InitGoes calls es s t ∧ P t
  | .ended t => InitFails s₀ calls s t

section
variable {s₀ s t u : State} {calls calls' : List Call} {es es' : List Event} {P Q : State → Prop}

theorem InitGoes.refl (s : State) : InitGoes [] [] s s := ⟨.refl s, by simp, fun _ ho => ho⟩

theorem InitGoes.trans (h : InitGoes calls es s t) (k : InitGoes calls' es' t u) :
    InitGoes (calls ++ calls') (es ++ es') s u :=
  ⟨h.keeps.trans k.keeps, by rw [k.trace, h.trace, List.append_assoc], fun rest ho =>
    k.script rest (h.script _ (by rwa [← List.append_assoc]))⟩

theorem InitGoes.thenFails (h : InitGoes calls es s t) (k : InitFails s₀ calls' t u) :
    InitFails s₀ (calls ++ calls') s u :=
  ⟨h.keeps.trans k.keeps, fun rest ho => k.script rest (h.script _ (by rwa [← List.append_assoc])), k.mode, k.rsp⟩

theorem InitFails.before (h : InitFails s₀ calls s t) (calls' : List Call) : InitFails s₀ (calls ++ calls') s t :=
  ⟨h.keeps, fun rest ho => h.script (calls' ++ rest) (by rwa [← List.append_assoc]), h.mode, h.rsp⟩

theorem Run.Inits.after {r : Run} (hr : r.Inits s₀ calls' es' P t) (h : InitGoes calls es s t) :
    r.Inits s₀ (calls ++ calls') (es ++ es') P s := by
  cases r with
  | going u =>
    obtain ⟨hgoes, hp⟩ := hr
    exact ⟨h.trans hgoes, hp⟩
  | ended u => exact h.thenFails hr

theorem Run.Inits.andThen {r : Run} {f : State → Run} (hr : r.Inits s₀ calls es P s)
    (hf : ∀ t, P t → (f t).Inits s₀ calls' es' Q t) :
    (andThen r f).Inits s₀ (calls ++ calls') (es ++ es') Q s := by
  cases r with
  | going t =>
    obtain ⟨hgoes, hp⟩ := hr
    exact (hf t hp).after hgoes
  | ended t => exact InitFails.before hr calls'

theorem Run.Inits.weaken {r : Run} (hr : r.Inits s₀ calls es P s) (hpq : ∀ t, P t → Q t) :
    r.Inits s₀ calls es Q s := by
  cases r with
  | going t =>
    obtain ⟨hgoes, hp⟩ := hr
    exact ⟨hgoes, hpq t hp⟩
  | ended t => exact hr

theorem inits_going (h : P s) : (Run.going s).Inits s₀ [] [] P s := ⟨.refl s, h⟩

/-- An optional line. -/
theorem inits_ite {c : Bool} {r : Run} (h : P s) (hr : c = true → r.Inits s₀ calls es P s) :
    (if c then r else .going s).Inits s₀ (if c then calls else []) (if c then es else []) P s := by
  cases c with
  | true => exact hr rfl
  | false => exact inits_going h

/-- A failing answer of INIT is reported as INIT_ERROR with error address 0 (R220). -/
theorem InitCall.inits {c : Call} {e : Event} (h : InitCall s₀ c e s t) (hp : t.seq.ret = .ok → P t) :
    (orInitError t).Inits s₀ [c] [e] P s := by
  obtain ⟨hok, hr⟩ | ⟨hne, hr⟩ := orInitError_cases t <;> rw [hr]
  · exact ⟨⟨h.keeps, h.trace hok, fun rest ho => (h.script rest ho).2⟩, hp hok⟩
  · have hfail : KeepsData t (fail .initError 0 t) := ⟨fail_initDone .., fun a => by rw [fail_dev]⟩
    refine ⟨h.keeps.trans hfail, fun rest ho => hne (h.script rest ho).1, ?_, fail_rsp ..⟩
    rw [ModeAfterFailure, fail_mode, fail_trace]
    exact h.mode hne

/-! ### Its calls -/

/-- A command that is no program or erase makes every unfinished result unknown, which shows in no byte (log 8). -/
theorem sendOp_keepsFlash_and_quiets {k : Kind} (hk : changesFlash k = false) (a : Nat) (p : List Byte) (s : State) :
    (∀ x, flashByte (sendOp (encodeOp k a p s)).dev x = flashByte s.dev x) ∧
      (sendOp (encodeOp k a p s)).dev.quiet = true := by
  have hr : commandRuns s.cfg (encodeCmd s.cfg.cat k a p) = none := commandRuns_of_no_change hk s.cfg
  rw [sendOp_dev, encodeOp_dev, encodeOp_cfg, encodeOp_seq, deviceSend_of_none hr]
  exact ⟨flashByte_disturb s.dev, quiet_disturb s.dev⟩

theorem initCall_send {k : Kind} (hk : changesFlash k = false) (hm : s.mode = .indirect) :
    InitCall s₀ .plain (.send (encodeCmd s.cfg.cat k 0 []) .ok) s (sendOp (encodeOp k 0 [] s)) where
  keeps := ⟨rfl, (sendOp_keepsFlash_and_quiets hk 0 [] s).1⟩
  trace hok := congrArg (fun r => s.trace ++ [.send (encodeCmd s.cfg.cat k 0 []) r]) hok
  script _ ho := sendOp_of_obliges ho
  mode _ := .inl hm

theorem initCall_poll (spec : PollSpec) (hm : s.mode = .indirect) (hq : s.dev.quiet = true) :
    InitCall s₀ (.poll spec) (.poll (encodeCmd s.cfg.cat .readStatus 0 []) spec .ok) s (pollOp spec s) where
  keeps := ⟨rfl, fun a => flashByte_devicePoll_of_quiet _ _ _ _ hq a⟩
  trace hok := congrArg (fun r => s.trace ++ [.poll (encodeCmd s.cfg.cat .readStatus 0 []) spec r]) hok
  script _ ho := pollOp_of_obliges ho
  mode _ := .inl hm

theorem initCall_map (hm : s.mode = .indirect) :
    InitCall s₀ .plain (.map (encodeCmd s.cfg.cat .quadRead 0 []) .ok) s (mapOp s) where
  keeps := ⟨rfl, fun a => flashByte_disturb s.dev a⟩
  trace hok := congrArg (fun r => s.trace ++ [.map (encodeCmd s.cfg.cat .quadRead 0 []) r]) hok
  script _ ho := callAnswer_of_obliges ho
  mode hne := .inl ((if_neg hne).trans hm)

/-- The ABORT is INIT's first call (R220). -/
theorem initCall_abort (s : State) : InitCall s .plain (.abort .ok) s (abortOp s) where
  keeps := ⟨rfl, fun _ => rfl⟩
  trace hok := congrArg (fun r => s.trace ++ [.abort r]) hok
  script _ ho := callAnswer_of_obliges ho
  mode hne := by
    have hfail : callAnswer (nextDraw s.dev) = .busError := (callAnswer_ok_or_busError _).resolve_left hne
    exact .inr ⟨if_neg hne, by rw [abortOp_trace, hfail]⟩

/-! ### Its lines -/

/-- Between two lines of INIT after its ABORT, under the configuration `c`. -/
structure AtInitLine (c : Cfg) (s : State) : Prop where
  cfg : s.cfg = c
  mode : s.mode = .indirect

/-- The same after a SEND, so the WIP wait of INIT has no unfinished result to show (log 8). -/
structure AfterInitSend (c : Cfg) (s : State) : Prop extends AtInitLine c s where
  quiet : s.dev.quiet = true

variable {c : Cfg}

theorem AtInitLine.initSend {k : Kind} (hk : changesFlash k = false) (h : AtInitLine c s) :
    (initSend k s).Inits s₀ [.plain] [.send (encodeCmd c.cat k 0 []) .ok] (AfterInitSend c) s := by
  obtain ⟨rfl, hm⟩ := h
  exact (initCall_send hk hm).inits fun _ => ⟨⟨rfl, hm⟩, (sendOp_keepsFlash_and_quiets hk 0 [] s).2⟩

theorem AfterInitSend.initPoll (h : AfterInitSend c s) :
    (orInitError (pollOp (wipWait c.cat c.cat.tInit) s)).Inits s₀ [.poll (wipWait c.cat c.cat.tInit)]
      [.poll (encodeCmd c.cat .readStatus 0 []) (wipWait c.cat c.cat.tInit) .ok] (AfterInitSend c) s := by
  obtain ⟨⟨rfl, hm⟩, hq⟩ := h
  exact (initCall_poll _ hm hq).inits fun _ => ⟨⟨rfl, hm⟩, quiet_devicePoll _ _ _ _ hq⟩

theorem AtInitLine.initMap (h : AtInitLine c s) :
    (orInitError (mapOp s)).Inits s₀ [.plain] [.map (encodeCmd c.cat .quadRead 0 []) .ok] (fun _ => True) s := by
  obtain ⟨rfl, hm⟩ := h
  exact (initCall_map hm).inits fun _ => trivial

theorem inits_abort (s : State) : (if s.mode = .mapped then orInitError (abortOp s) else .going s).Inits s
    (toggleCalls .indirect s.mode) (toggleTrace s.cfg.cat .indirect s.mode) (AtInitLine s.cfg) s := by
  cases hm : s.mode with
  | indirect => exact inits_going ⟨rfl, hm⟩
  | mapped => exact (initCall_abort s).inits fun hok => ⟨rfl, abortOp_mode_of_ok hok⟩

/-- The lines of INIT have the calls of R220, which leave the flash bytes alone. -/
theorem inits_initLines (s : State) : (initLines s).Inits s (initCalls s.cfg.cat s.mode) (initTrace s.cfg.cat s.mode)
    (fun _ => True) s := by
  simp only [initCalls, initTrace, List.append_assoc]
  refine (inits_abort s).andThen fun t ht => ?_
  rw [ht.cfg]
  refine (inits_ite ht fun _ => (ht.initSend rfl).weaken fun _ => AfterInitSend.toAtInitLine).andThen fun t ht => ?_
  refine Run.Inits.andThen (calls := [.plain]) (es := [_]) (ht.initSend rfl) fun t ht => ?_
  rw [ht.cfg]
  refine Run.Inits.andThen (calls := [_]) (es := [_]) ht.initPoll fun t ht => ?_
  rw [ht.cfg]
  refine (inits_ite ht fun _ => ht.toAtInitLine.initSend rfl).andThen fun t ht => ?_
  rw [ht.cfg]
  exact inits_ite trivial fun _ => ht.toAtInitLine.initMap

end

/-! ## INIT -/

theorem exec_init_of_wf {s : State} (hw : s.cfg.wf = true) : exec .init s = .next (initBody (accept 1 s)) :=
  runRequest_eq_next.2 ⟨requestRefusal_eq_none.2 ⟨hw, nofun, Nat.zero_le _⟩, rfl⟩

/-- INIT has completed (R220). -/
structure InitSucceeds (s t : State) : Prop where
  initDone : t.initDone = true
  rsp : t.rsp = okResponse
  trace : t.trace = s.trace ++ initTrace s.cfg.cat s.mode
  estate : t.estate = .idle
  curOp : t.curOp = 0

/-- A call of INIT has failed, so its answers were not all OK (R220). -/
structure InitReportsFailure (s t : State) : Prop where
  initDone : t.initDone = false
  rsp : t.rsp = { Response.zero with status := .initError }
  mode : ModeAfterFailure s t
  script : obliges (initCalls s.cfg.cat s.mode) s.dev.script ≠ true

/-- Whatever the environment answers, INIT completes or reports the failure of a call, and keeps the flash bytes. -/
theorem exec_init_ends {s : State} (hw : s.cfg.wf = true) : ∃ t, exec .init s = .next t ∧
    (∀ a, flashByte t.dev a = flashByte s.dev a) ∧ (InitSucceeds s t ∨ InitReportsFailure s t) := by
  refine ⟨_, exec_init_of_wf hw, ?_⟩
  have hlines := inits_initLines { accept 1 s with initDone := false }
  unfold initBody
  cases hrun : initLines { accept 1 s with initDone := false } with
  | going u =>
    rw [hrun] at hlines
    obtain ⟨⟨hkeeps, htrace, -⟩, -⟩ := hlines
    refine ⟨fun a => ?_, .inl ⟨?_, ?_, ?_, ?_, ?_⟩⟩ <;> simp [hkeeps.byte, htrace]
  | ended u =>
    rw [hrun] at hlines
    obtain ⟨hkeeps, hscript, hmode, hrsp⟩ := hlines
    simp only [ModeAfterFailure, accept_cfg, accept_mode, accept_trace, accept_dev] at hscript hmode
    refine ⟨fun a => ?_, .inr ⟨hkeeps.initDone, hrsp, hmode, fun ho => hscript [] (by rwa [List.append_nil])⟩⟩
    rw [finish_ended, hkeeps.byte, accept_dev]

/-- INIT sends no program or erase command (R34, R220). -/
theorem init_sendsNoChange {cfg : Cfg} {es : List Event} (h : RequestTrace cfg .init es) : sendsNoChange es := by
  intro cmd r hm
  by_contra hk
  obtain ⟨_, _, _, hc, -⟩ := h.send_changes hm (by simpa using hk)
  cases hc

theorem MappedIfXip.mode {s : State} (h : MappedIfXip s) :
    s.mode = if s.cfg.cat.xipAfterInit then .mapped else .indirect := by
  split_ifs with hx
  · exact h.2 hx
  · exact isIndirect_of_ne_mapped fun hm => hx (h.1 hm)

/-- Settles O21: INIT goes through its lines, and MODE is what `exec_request_endsIn` says of an OK response. -/
theorem initCompletes : Obligations.InitCompletes := by
  intro s hw ho
  obtain ⟨t, hx, -, hok | hfail⟩ := exec_init_ends hw
  · have hmode : MappedIfXip t := (exec_request_endsIn rfl hx).ok (by rw [hok.rsp]; rfl)
    refine ⟨t, hx, hok.initDone, hok.rsp, ?_, hok.trace, hok.estate, hok.curOp⟩
    rw [hmode.mode, (exec_extends hx).cfg]
  · exact absurd ho hfail.script

/-- Settles O22: both ends of `exec_init_ends`, the trace being a `RequestTrace` of INIT. -/
theorem initOutcomes : Obligations.InitOutcomes := by
  intro s hw
  obtain ⟨t, hx, hbyte, hend⟩ := exec_init_ends hw
  obtain ⟨new, ht, hnew⟩ := exec_requestTrace rfl hx
  refine ⟨t, new, hx, ht, ?_, init_sendsNoChange hnew, hbyte⟩
  obtain hok | hfail := hend
  · exact .inl ⟨hok.initDone, by rw [hok.rsp]; rfl⟩
  · refine .inr ⟨hfail.initDone, hfail.rsp, hfail.mode.imp_right ?_⟩
    exact fun ⟨hm, habort⟩ => ⟨hm, List.append_cancel_left (ht.symm.trans habort)⟩

end Sys2Proof.Machine
end

section
/-! PROOFS of the family 60_exceptions: what a failed request reports and leaves (R235, R236). -/

namespace Sys2Proof.Machine

/-! ## How a request fails (R236)

A request that fails has ended in `fail`: its report is a STATUS and an error address, and the block is idle. -/

/-- `t` is what some failure with an error address in `P` leaves (R236). -/
def FailedAt (P : Word → Prop) (t : State) : Prop := ∃ k ea u, P ea ∧ t = fail k ea u

/-- A request has ended in `t` with an OK response, or failed at an error address in `P`. -/
def OkOrFailedAt (P : Word → Prop) (t : State) : Prop := t.rsp.status = .ok ∨ FailedAt P t

/-- A run that has ended has failed, at an error address in `P`. -/
def Run.FailsAt (P : Word → Prop) : Run → Prop
  | .going _ => True
  | .ended t => FailedAt P t

theorem okOrFailedAt_respond (P : Word → Prop) {r : Response} (h : r.status = .ok) (s : State) :
    OkOrFailedAt P (respond r s) :=
  .inl ((congrArg Response.status (respond_rsp r s)).trans h)

section
variable {P : Word → Prop}

theorem Run.FailsAt.andThen {r : Run} {f : State → Run} (hr : r.FailsAt P) (hf : ∀ t, (f t).FailsAt P) :
    (andThen r f).FailsAt P := by
  cases r with
  | going t => exact hf t
  | ended t => exact hr

theorem Run.FailsAt.finish {r : Run} {f : State → State} (hr : r.FailsAt P) (hf : ∀ t, OkOrFailedAt P (f t)) :
    OkOrFailedAt P (finish r f) := by
  cases r with
  | going t => exact hf t
  | ended t => exact .inr hr

theorem Run.FailsAt.finish_ok {r : Run} (hr : r.FailsAt P) : OkOrFailedAt P (Machine.finish r (respond okResponse)) :=
  hr.finish (okOrFailedAt_respond P rfl)

/-- A request of length 0 is answered OK at once (R238). -/
theorem OkOrFailedAt.of_length {t : State} (h : OkOrFailedAt P t) (length : Word) {r : Response} (hr : r.status = .ok)
    (s : State) : OkOrFailedAt P (if length = 0 then respond r s else t) := by
  split_ifs
  · exact okOrFailedAt_respond P hr s
  · exact h

theorem failsAt_ite (c : Prop) [Decidable c] (s : State) {r : Run} (hr : r.FailsAt P) :
    (if c then r else .going s).FailsAt P := by
  split_ifs
  · exact hr
  · trivial

theorem failsAt_orFail {ea : Word} (h : P ea) (s : State) : (orFail ea s).FailsAt P := by
  obtain ⟨-, e⟩ | ⟨-, e⟩ := orFail_cases ea s <;> rw [e]
  · trivial
  · exact ⟨_, ea, s, h, rfl⟩

theorem failsAt_orInitError (s : State) : (orInitError s).FailsAt (· = 0) := by
  obtain ⟨-, e⟩ | ⟨-, e⟩ := orInitError_cases s <;> rw [e]
  · trivial
  · exact ⟨_, 0, s, rfl, rfl⟩

theorem failsAt_ensureIndirect {ea : Word} (h : P ea) (s : State) : (ensureIndirect ea s).FailsAt P :=
  failsAt_ite _ _ (failsAt_orFail h _)

theorem failsAt_ensureMapped {ea : Word} (h : P ea) (s : State) : (ensureMapped ea s).FailsAt P :=
  failsAt_ite _ _ (failsAt_orFail h _)

theorem failsAt_wcmd {ea : Word} (h : P ea) (k : Kind) (a : Nat) (payload : List Byte) (t : Word) (s : State) :
    (wcmd k a payload t ea s).FailsAt P :=
  (failsAt_orFail h _).andThen fun _ => (failsAt_orFail h _).andThen fun _ =>
  (failsAt_orFail h _).andThen fun _ => (failsAt_orFail h _).andThen fun _ => trivial

end

/-! ### The six requests -/

theorem failsAt_initLines (s : State) : (initLines s).FailsAt (· = 0) :=
  (failsAt_ite _ _ (failsAt_orInitError _)).andThen fun _ =>
  (failsAt_ite _ _ (failsAt_orInitError _)).andThen fun _ =>
  (failsAt_orInitError _).andThen fun _ => (failsAt_orInitError _).andThen fun _ =>
  (failsAt_ite _ _ (failsAt_orInitError _)).andThen fun _ => failsAt_ite _ _ (failsAt_orInitError _)

theorem okOrFailedAt_initBody (s : State) : OkOrFailedAt (· = 0) (initBody s) :=
  (failsAt_initLines _).finish fun _ => okOrFailedAt_respond _ rfl _

theorem okOrFailedAt_eraseAllBody (s : State) : OkOrFailedAt (· = 0) (eraseAllBody s) :=
  ((failsAt_ensureIndirect (P := (· = 0)) rfl s).andThen fun _ => failsAt_wcmd (P := (· = 0)) rfl _ _ _ _ _).finish_ok

/-- Which address the loops of ERASE_RANGE and PROGRAM report is said by O44 and O43. -/
theorem failsAt_eraseLoop (n : Nat) (s : State) : (eraseLoop n s).FailsAt fun _ => True := by
  induction n generalizing s with
  | zero => trivial
  | succ n ih =>
    have hsector : (eraseSector s).FailsAt fun _ => True := (failsAt_wcmd trivial _ _ _ _ _).andThen fun _ => trivial
    exact failsAt_ite _ _ (hsector.andThen ih)

theorem okOrFailedAt_eraseRangeBody (start length : Word) (s : State) :
    OkOrFailedAt (fun _ => True) (eraseRangeBody start length s) :=
  ((failsAt_ensureIndirect trivial s).andThen fun _ => failsAt_eraseLoop _ _).finish_ok

theorem failsAt_programLoop (start buf : Word) (n : Nat) (s : State) :
    (programLoop start buf n s).FailsAt fun _ => True := by
  induction n generalizing s with
  | zero => trivial
  | succ n ih =>
    have hchunk : (programChunk start buf s).FailsAt fun _ => True :=
      (failsAt_wcmd trivial _ _ _ _ _).andThen fun _ => trivial
    unfold programLoop
    split_ifs
    · trivial
    · exact hchunk.andThen ih

theorem okOrFailedAt_programBody (start length buf : Word) (s : State) :
    OkOrFailedAt (fun _ => True) (programBody start length buf s) :=
  ((failsAt_ensureIndirect trivial s).andThen fun _ => failsAt_programLoop _ _ _ _).finish_ok.of_length length rfl s

theorem okOrFailedAt_checksumBody (start length seed : Word) (s : State) :
    OkOrFailedAt (· = start) (checksumBody start length seed s) :=
  ((failsAt_ensureMapped (P := (· = start)) rfl s).finish fun _ => okOrFailedAt_respond _ rfl _).of_length length rfl s

theorem okOrFailedAt_verifyLoop (P : Word → Prop) (start buf ck : Word) (n : Nat) (s : State) :
    OkOrFailedAt P (verifyLoop start buf ck n s) := by
  induction n generalizing s with
  | zero => exact okOrFailedAt_respond P rfl s
  | succ n ih =>
    rw [verifyLoop_succ]
    split_ifs
    · exact ih _
    · exact okOrFailedAt_respond P rfl _

theorem okOrFailedAt_verifyBody (start length seed buf : Word) (s : State) :
    OkOrFailedAt (· = start) (verifyBody start length seed buf s) :=
  ((failsAt_ensureMapped (P := (· = start)) rfl s).finish fun _ =>
    okOrFailedAt_verifyLoop _ _ _ _ _ _).of_length length rfl s

/-- What an error address of a request is, where the request has only one (R235). -/
def ErrorAddress : Instr → Word → Prop
  | .init, ea | .eraseAll, ea => ea = 0
  | .checksum start _ _, ea | .verify start _ _ _, ea => ea = start
  | _, _ => True

theorem okOrFailedAt_runRequest {P : Word → Prop} {op : BitVec 4} {needsInit : Bool} {extent : Nat}
    {body : State → State} {s t : State} (hb : ∀ s, OkOrFailedAt P (body s))
    (h : runRequest op needsInit extent body s = .next t) : OkOrFailedAt P t := by
  obtain ⟨-, rfl⟩ := runRequest_eq_next.1 h
  exact hb _

theorem exec_request_okOrFailedAt {i : Instr} {s t : State} (hi : isRequest i = true) (h : exec i s = .next t) :
    OkOrFailedAt (ErrorAddress i) t := by
  cases i with
  | init => exact okOrFailedAt_runRequest okOrFailedAt_initBody h
  | program start length buf => exact okOrFailedAt_runRequest (okOrFailedAt_programBody start length buf) h
  | eraseRange start length => exact okOrFailedAt_runRequest (okOrFailedAt_eraseRangeBody start length) h
  | eraseAll => exact okOrFailedAt_runRequest okOrFailedAt_eraseAllBody h
  | checksum start length seed => exact okOrFailedAt_runRequest (okOrFailedAt_checksumBody start length seed) h
  | verify start length seed buf => exact okOrFailedAt_runRequest (okOrFailedAt_verifyBody start length seed buf) h
  | resetEnable | reset | writeEnable | readStatus | pageProgram | sectorErase | chipErase | quadRead | enter4Byte
  | send | poll | map | abort => cases hi

/-! ## The error address of a PROGRAM and an ERASE_RANGE (R235) -/

/-- A chunk starts at `start` or at a page boundary inside the range (R152). -/
theorem chunkList_offset {p : Nat} (hp : 1 ≤ p) (start length : Nat) : ∀ c ∈ chunkList p start length,
    c.1 < start + length ∧ (c.1 = start ∨ (c.1 % p = 0 ∧ start < c.1)) := by
  refine chunkList_induction hp (P := fun c r cs => ∀ d ∈ cs, d.1 < c + r ∧ (d.1 = c ∨ (d.1 % p = 0 ∧ c < d.1)))
    (fun _ => List.forall_mem_nil _) (fun c r n cs hn hpos ih => List.forall_mem_cons.2 ⟨?_, fun d hd => ?_⟩)
    start length
  · exact ⟨by omega, .inl rfl⟩
  · obtain ⟨hlt, hd | ⟨hmod, hgt⟩⟩ := ih d hd
    · have hpage : n = p - c % p := by omega
      exact ⟨by omega, .inr ⟨by rw [hd, hpage, add_pageRest_mod hp], by omega⟩⟩
    · exact ⟨by omega, .inr ⟨hmod, by omega⟩⟩

/-- A sector starts at a multiple of the sector size, from the one that holds `start` to the end of the range (R167). -/
theorem sectorList_mem {size start length a : Nat} (hs : 1 ≤ size) (h : a ∈ sectorList size start length) :
    a % size = 0 ∧ floorTo size start ≤ a ∧ a ≤ start + length := by
  obtain ⟨k, hk, rfl⟩ := List.mem_map.1 h
  have hk := List.mem_range.1 hk
  refine ⟨Nat.mul_mod_left _ _, ?_, (Nat.le_div_iff_mul_le hs).1 (by omega)⟩
  rw [floorTo_eq_mul_div, Nat.mul_comm]
  exact Nat.mul_le_mul_right _ (Nat.le_add_right _ _)

/-- A request whose last event is a call of an elementary command did not end in its ABORT. -/
theorem getLast?_ne_abort {cat : Catalog} {k : Kind} {a n : Nat} {payload : List Byte} {tmo : Word} {e : Event}
    {r : Answer} {old new pre : List Event} (he : (wcmdTrace cat k a payload tmo)[n]? = some e)
    (ht : old ++ new = pre ++ [withAnswer e r]) : new.getLast? ≠ some (.abort .busError) := by
  intro hlast
  have habort : withAnswer e r = .abort .busError := by
    have hl := congrArg List.getLast? ht
    rw [List.getLast?_append, hlast, List.getLast?_concat] at hl
    exact (Option.some.inj hl).symm
  have hevent := (wcmdEvent_of_mem (List.mem_of_getElem? he)).withAnswer r
  rwa [habort] at hevent

section
variable {start length buf : Word} {s t : State} {new : List Event}

theorem program_errAddr (hx : exec (.program start length buf) s = .next t) (hst : t.rsp.status ≠ .ok)
    (ht : t.trace = s.trace ++ new) : t.rsp.errAddr = start ∨
      (new.getLast? ≠ some (.abort .busError) ∧ t.rsp.errAddr.toNat % s.cfg.geom.pageSize.toNat = 0 ∧
        start.toNat < t.rsp.errAddr.toNat ∧ t.rsp.errAddr.toNat < start.toNat + length.toNat) := by
  obtain ⟨hw, -, -⟩ := requestRefusal_eq_none.1 (runRequest_eq_next.1 hx).1
  obtain ⟨-, -, -, hrsp⟩ | ⟨j, c, n, e, r, hj, ⟨he, -, -, htrace, -, -, hea⟩, -⟩ :=
    failedProgramReportsItsChunk s t start length buf hx hst
  · exact .inl (congrArg Response.errAddr hrsp)
  · rw [hea]
    obtain ⟨hlt, hfirst | ⟨hpage, hgt⟩⟩ := chunkList_offset (pageSize_pos hw) _ _ c (List.mem_of_getElem? hj)
    · exact .inl (BitVec.eq_of_toNat_eq (hea.trans hfirst))
    · exact .inr ⟨getLast?_ne_abort he (ht.symm.trans htrace), hpage, hgt, hlt⟩

theorem eraseRange_errAddr (hx : exec (.eraseRange start length) s = .next t) (hst : t.rsp.status ≠ .ok)
    (ht : t.trace = s.trace ++ new) : (new.getLast? = some (.abort .busError) ∧ t.rsp.errAddr = start) ∨
      (new.getLast? ≠ some (.abort .busError) ∧ t.rsp.errAddr.toNat % s.cfg.geom.sectorSize.toNat = 0 ∧
        floorTo s.cfg.geom.sectorSize.toNat start.toNat ≤ t.rsp.errAddr.toNat ∧
        t.rsp.errAddr.toNat ≤ start.toNat + length.toNat) := by
  obtain ⟨hw, -, -⟩ := requestRefusal_eq_none.1 (runRequest_eq_next.1 hx).1
  obtain ⟨-, htrace, -, hrsp⟩ | ⟨j, a, n, e, r, hj, he, -, -, htrace, -, -, hea⟩ :=
    failedEraseReportsItsSector s t start length hx hst
  · obtain rfl : new = [.abort .busError] := List.append_cancel_left (ht.symm.trans htrace)
    exact .inl ⟨rfl, congrArg Response.errAddr hrsp⟩
  · rw [hea]
    exact .inr ⟨getLast?_ne_abort he (ht.symm.trans htrace),
      sectorList_mem (sectorSize_pos hw) (List.mem_of_getElem? hj)⟩

end

/-- Settles O42: a failed request has ended in `fail`, and O43 and O44 tell which chunk or sector it reports. -/
theorem failureReport : Obligations.FailureReport := by
  intro i s t hi hx hst
  obtain ⟨new, ht, -, hm⟩ := (exec_request_endsIn hi hx).obeys
  obtain ⟨k, ea, u, hea, rfl⟩ := (exec_request_okOrFailedAt hi hx).resolve_left hst
  have hrsp := fail_rsp k ea u
  have haddr : (fail k ea u).rsp.errAddr = ea := congrArg Response.errAddr hrsp
  refine ⟨congrArg Response.checksum hrsp, congrArg Response.mmValid hrsp, congrArg Response.mmAddr hrsp,
    fail_estate k ea u, fail_curOp k ea u, new, ht, hm, ?_⟩
  cases i with
  | init | eraseAll | checksum | verify => exact haddr.trans hea
  | program => exact program_errAddr hx hst ht
  | eraseRange => exact eraseRange_errAddr hx hst ht
  | resetEnable | reset | writeEnable | readStatus | pageProgram | sectorErase | chipErase | quadRead | enter4Byte
  | send | poll | map | abort => cases hi

end Sys2Proof.Machine
end

section
/-! PROOFS of the family 70_reset_and_hazards: what the write-enable latch decides (R32, R264), and the state after a
reset (R23, R24, R260). -/

namespace Sys2Proof.Machine

/-! ## The write-enable latch (R32, R264) -/

/-- A sample tells whether the latch is set, and whether it is clear: WEL_BIT is not 0 (R133). -/
theorem latchSeen_of_sample {cat : Catalog} (hb : cat.welBit ≠ 0) {p : Poller} (hp : p.count ≠ 0) (known : Latch) :
    (latchSeen cat p known = .set ↔ p.sample &&& cat.welBit = cat.welBit) ∧
      (latchSeen cat p known = .clear ↔ p.sample &&& cat.welBit = 0) := by
  simp only [latchSeen, comparator, if_neg hp, beq_iff_eq]
  split_ifs with hset hclear
  · exact ⟨iff_of_true rfl hset, iff_of_false nofun fun h0 => hb (hset.symm.trans h0)⟩
  · exact ⟨iff_of_false nofun hset, iff_of_true rfl hclear⟩
  · exact ⟨iff_of_false nofun hset, iff_of_false nofun hclear⟩

/-- A program or erase names the offsets it changes. -/
theorem commandRuns_of_change {cmd : BusCmd} (h : changesFlash cmd.kind = true) (cfg : Cfg) :
    ∃ runs, commandRuns cfg cmd = some runs := by
  unfold commandRuns
  cases hk : cmd.kind with
  | pageProgram | sectorErase | chipErase => exact ⟨_, rfl⟩
  | resetEnable | reset | writeEnable | readStatus | quadRead | enter4Byte => rw [hk] at h; cases h

/-- Only an accepted command writes stored bytes, and a latch that is not set accepts none (R264). -/
theorem deviceSend_flash_of_latch_not_set {d : Device} (h : d.wel ≠ .set) (c : Cfg) (an : Answer) (x : BusCmd) :
    (deviceSend c an x d).flash = d.flash := by
  unfold deviceSend
  cases commandRuns c x with
  | none => rfl
  | some runs =>
    have hno : accepted c an runs d = false := by simp [accepted, h]
    simp only [hno, Bool.false_eq_true, if_false]
    split_ifs <;> rfl

/-- No SEND leaves the latch known to be set (log 9). -/
theorem deviceSend_wel_ne_set (c : Cfg) (an : Answer) (x : BusCmd) (d : Device) :
    (deviceSend c an x d).wel ≠ .set := by
  rw [deviceSend_wel]
  split_ifs <;> simp

/-- Settles O60: a poll leaves the latch as `latchSeen` reads it, and a latch read clear makes a command `ignored`. -/
theorem latchGatesProgramAndErase : Obligations.LatchGatesProgramAndErase := by
  refine ⟨fun s t spec hx hcount => ?_, fun s hw hm hd hk hwel => ?_⟩
  · obtain ⟨hw, -, rfl⟩ := runLine_eq_next.1 ((exec_poll spec s).symm.trans hx)
    obtain ⟨-, hb⟩ := globals_of_wf hw
    have hseen : (pollOp spec s).dev.wel = latchSeen s.cfg.cat (pollOp spec s).pol s.dev.wel := by simp
    rw [hseen]
    exact latchSeen_of_sample hb hcount _
  · refine ⟨sendOp s, exec_send_of_indirect hw hm hd, deviceSend_flash_of_latch_not_set hwel _ _ _,
      deviceSend_wel_ne_set _ _ _ _, fun hclear hidle hok hgeom => ?_⟩
    obtain ⟨runs, hr⟩ := commandRuns_of_change hk s.cfg
    have hanswer : callAnswer (nextDraw s.dev) = .ok := hok
    have hignored : ignored s.cfg (callAnswer (nextDraw s.dev)) runs s.dev = true := by
      simp [ignored, specified, hanswer, hidle, hgeom runs hr, hclear]
    rw [sendOp_dev, deviceSend_of_ignored hr hignored]
    exact ⟨hidle, fun _ => rfl⟩

/-! ## Reset (R260) -/

/-- Settles O54: TCFG is well formed, nothing is stored, and the machine starts idle in INDIRECT. -/
theorem resetMeetsTheInvariant : Obligations.ResetMeetsTheInvariant :=
  ⟨by decide, rfl, rfl, rfl, rfl, rfl, nofun⟩

theorem step_of_blockReset {s : State} {moves : List HostMove} (hw : s.cfg.wf = true) (hp : s.seq.pos = none)
    (hm : s.host.moves = .blockReset :: moves) : step s = .next (blockReset (takeMove moves [] s)) := by
  simp [step, hw, hp, hm]

/-- Settles O56: `step` takes the move, and `blockReset` writes the registers that `State.reset` has. -/
theorem blockResetSetsTheBlock : Obligations.BlockResetSetsTheBlock :=
  ⟨⟨rfl, rfl, rfl, rfl, rfl, rfl⟩, fun _ _ hw hp hm =>
    ⟨_, step_of_blockReset hw hp hm, rfl, rfl, rfl, rfl, rfl, rfl, rfl, rfl, rfl⟩⟩

end Sys2Proof.Machine
end
